-- ==== Sys2Proof/Word.lean ====
section
/-! DEFINITION. The two word types of the device core: `bits64` and `byte` of rule R14. -/

namespace Sys2Proof

/-- `bits64` (R14): an unsigned 64-bit word, the width of every register-window value. -/
abbrev Word := BitVec 64

/-- `byte` (R14): an unsigned 8-bit value. -/
abbrev Byte := BitVec 8

end Sys2Proof
end

