-- ==== Sys2Proof/Config.lean ====
section
/-! DEFINITION. The constants the source fixes (R7), the parameters of one device (R8), and the free
values: what the Environment answers and what is drawn (R17, R26, R27). -/

namespace Sys2Proof

namespace Config

/-- `WINDOW_LAST` (R7): the last valid register-window offset. -/
abbrev windowLast : Nat := 0x50

/-- `AREA_START` (R7): the device address of buffer byte 0. -/
abbrev areaStart : Nat := 0x10000

/-- `AREA_SIZE` (R7): the size of the DMA buffer in bytes. -/
abbrev areaSize : Nat := 0x1000

/-- `COMPLETION_VECTOR` (R7): the vector of DMA completion and of the diagnostic path. -/
abbrev completionVector : Nat := 0

/-- `CMD_TO_DEVICE` (R7). -/
abbrev cmdToDevice : Word := 1#64

/-- `CMD_FROM_DEVICE` (R7). -/
abbrev cmdFromDevice : Word := 2#64

/-- `ALL_ONES` (R7): the sentinel every read without a register behind it returns. -/
abbrev allOnes : Word := 0xFFFFFFFFFFFFFFFF#64

/-- `BOUND_INCLUSIVE` (R8): fixed `true`, the upper bound of the window test is inclusive (C8, D5). -/
abbrev boundInclusive : Bool := true

/-- FREE VALUE (R26): whether the log point reached at draw `n` emits its `Log` event. Log entry 6. -/
opaque logDraw : Nat → Bool

/-- FREE VALUE (R27): whether the bus transfer answered at draw `n` succeeds, where no scripted answer
stands in the State. Log entry 5. -/
opaque busOk : Nat → Bool

/-- FREE VALUE (R21, R217): byte `j` of the bytes drawn at draw `n`: what a failed bus read leaves in the
buffer, and what a bus read returns where no scripted answer gives the byte. Log entries 5 and 7. -/
opaque drawnByte : Nat → Nat → Byte

end Config

/-- The parameters of one device (`Cfg`, R8). They stand in the State as plain data, which no step
changes, so every statement over all states is a statement over all parameters (log entry 2). -/
structure Cfg where
  /-- `ADDR_WIDTH`: the address-capability width, 1 to 64. -/
  addrWidth : Nat
  /-- `MSI_NEGOTIATED`: the Environment's answer to `message_interrupts_negotiated()` (R25). -/
  msiNegotiated : Bool
  /-- `SERIALIZED`: whether accesses reach the Dispatcher one at a time (R8, D11). -/
  serialized : Bool
  /-- `BAR0_SIZE`: open, at least `0x58`; no rule depends on it (R81, D25). -/
  bar0Size : Nat
  deriving DecidableEq, Repr

/-- The ranges rule R8 gives the parameters. -/
def Cfg.wf (c : Cfg) : Bool :=
  decide (1 ≤ c.addrWidth) && decide (c.addrWidth ≤ 64) && decide (0x58 ≤ c.bar0Size)

/-- The parameters `State.reset` takes: the defaults of rule R8 (`ADDR_WIDTH` 32, `SERIALIZED` true), and
for the two the spec gives no default a value of the model's own (DESIGN CHOICE, log entry 2). -/
def Cfg.default : Cfg :=
  { addrWidth := 32, msiNegotiated := true, serialized := true, bar0Size := 0x58 }

end Sys2Proof
end

