-- ==== Sys2Proof/Machine/Operands.lean ====
section
/-! DEFINITION. Operands: the access size, how a narrow access is presented as a 64-bit value (R85), the
access key (R120), the capability mask (R9), the window test (R211) and the arithmetic of a transfer
(R215, R216, R220). Every quantity is unsigned and compared as a natural number (R15). -/

namespace Sys2Proof

/-- The access sizes the Host may use: 4 to 8 bytes (R13, R91). -/
def sizeOk (size : Nat) : Bool := decide (4 ≤ size) && decide (size ≤ 8)

/-- What an access of `size` bytes delivers of a written value: its low `8 * size` bits, zero above (R85). -/
def deliverWrite (size : Nat) (value : Word) : Word := (value.setWidth (8 * size)).setWidth 64

/-- The low `n` bytes of a word, byte 0 first: byte `j` is bits `8j+7 : 8j` (R84, R85). -/
def bytesOfWord (n : Nat) (value : Word) : List Byte :=
  (List.range n).map fun j => value.extractLsb' (8 * j) 8

/-- The word whose low-order bytes are the list, byte 0 first, zero above (R84). -/
def wordOfBytes : List Byte → Word
  | [] => 0
  | b :: rest => (wordOfBytes rest <<< 8) ||| b.setWidth 64

/-- What the bus master sees of a read that returned `value`: `size` bytes, bits `8s-1 : 0` (R85). -/
def presentRead (size : Nat) (value : Word) : List Byte := bytesOfWord size value

/-- The access key `W * 2^64 + offset` (R120). -/
def accessKey (write : Bool) (offset : Word) : BitVec 65 := BitVec.cons write offset

/-- The field `W` of an access key: bit 64 (R120). -/
def keyWrite (key : BitVec 65) : Bool := key.getLsbD 64

/-- The field `offset` of an access key: bits 63 to 0 (R120). -/
def keyOffset (key : BitVec 65) : Word := key.setWidth 64

/-- `MASK(w)` (R9): `2^w - 1` below width 64, `ALL_ONES` at 64 (and, outside the parameter's range, above
it: log entry 15). -/
def capabilityMask (w : Nat) : Word :=
  if w < 64 then BitVec.ofNat 64 (2 ^ w - 1) else Config.allOnes

/-- `in_window(a)` (R211): `AREA_START <= a <= AREA_START + AREA_SIZE`, the upper bound inclusive. -/
def inWindow (a : Word) : Bool :=
  decide (Config.areaStart ≤ a.toNat) &&
    (if Config.boundInclusive then decide (a.toNat ≤ Config.areaStart + Config.areaSize)
     else decide (a.toNat < Config.areaStart + Config.areaSize))

/-- The buffer offset `a - AREA_START` of a device address (R213); meant where `inWindow a` (R220). -/
def bufOffset (a : Word) : Nat := a.toNat - Config.areaStart

/-- The transfer passes the end of the buffer: `off + len > AREA_SIZE`, summed without wrap (R215, R220). -/
def overruns (off : Nat) (len : Word) : Bool := decide (off + len.toNat > Config.areaSize)

/-- The bus-side address the bus-transfer call receives: the AND with the mask (R216). -/
def maskedAddr (addr mask : Word) : Word := addr &&& mask

end Sys2Proof
end

