-- ==== Sys2Proof/Syntax.lean ====
section
/-! DEFINITION. The transactions of the device core: one constructor of `Instr` per row of
spec/opcode_table.json (R3, R120, R121), the lifecycle hooks, the request as the Host offers it, and the
pseudo-operations of the assembler notation (R131). -/

namespace Sys2Proof

/-- A transaction, decoded (R125). `size` is the access size in bytes and `value` the written value as it
is delivered to the Dispatcher: operands, never selectors (R120). The four catch-all rows carry the
offset they were reached at (R124). None is a fence or a barrier: the core has no such operation (R100). -/
inductive Instr where
  | rdReg0 (size : Nat)
  | rdReg1 (size : Nat)
  | rdReg2 (size : Nat)
  | rdReg3 (size : Nat)
  | rdWo20 (size : Nat)
  | rdWo28 (size : Nat)
  | rdWo30 (size : Nat)
  | rdWo38 (size : Nat)
  | rdWo40 (size : Nat)
  | rdWo48 (size : Nat)
  | rdWo50 (size : Nat)
  | rdUnmapped (offset : Word) (size : Nat)
  | rdInvalid (offset : Word) (size : Nat)
  | wrReg0 (value : Word) (size : Nat)
  | wrReg1 (value : Word) (size : Nat)
  | wrReg2 (value : Word) (size : Nat)
  | wrReg3 (value : Word) (size : Nat)
  | wrIrqRaise (value : Word) (size : Nat)
  | wrIrqLower (value : Word) (size : Nat)
  | wrDmaSrc (value : Word) (size : Nat)
  | wrDmaDst (value : Word) (size : Nat)
  | wrDmaLen (value : Word) (size : Nat)
  | wrDmaCmd (value : Word) (size : Nat)
  | wrDoorbell (value : Word) (size : Nat)
  | wrUnmapped (offset : Word) (value : Word) (size : Nat)
  | wrInvalid (offset : Word) (value : Word) (size : Nat)
  | init
  | reset
  | finalize
  deriving DecidableEq, Repr

/-- The lifecycle hooks (R121): entry points of their own, with no operand and no access word. -/
inductive Hook where
  | init
  | reset
  | finalize
  deriving DecidableEq, Repr

/-- A transaction as the Host offers it, before decoding. `mmio` is a register-window access: `write` is
the field `W`, `offset` the byte offset into BAR0, `size` the access size, `value` what the bus master
writes (not read for a read). -/
inductive Request where
  | mmio (write : Bool) (offset : Word) (size : Nat) (value : Word)
  | hook (h : Hook)
  deriving DecidableEq, Repr

/-- The pseudo-operations of the assembler notation (R131). -/
inductive Pseudo where
  | setreg (i : Fin 4) (v : Word)
  | getreg (i : Fin 4)
  | irqRaise
  | irqLower
  | dmaSrc (v : Word)
  | dmaDst (v : Word)
  | dmaLen (v : Word)
  | dmaCmd (v : Word)
  | dmaToDev (src dst len : Word)
  | dmaFromDev (src dst len : Word)
  | ring
  deriving DecidableEq, Repr

end Sys2Proof
end

