-- ==== Sys2Proof/WellFormed.lean ====
section
/-! DEFINITION. Which instructions a transaction of the Host can denote: the access size in 4 to 8 (R13),
a written value no wider than the access (R85), and a catch-all row's offset in that row's own set (the
row's "condition" in spec/opcode_table.json, R124). -/

namespace Sys2Proof

/-- A value an access of `size` bytes can deliver (R85). -/
def valueFits (size : Nat) (value : Word) : Bool := decide (value.toNat < 2 ^ (8 * size))

/-- The condition of the two UNMAPPED rows: `offset <= 0x50 and offset mod 8 != 0` (R126). -/
def offsetUnmapped (offset : Word) : Bool :=
  decide (offset.toNat ≤ Config.windowLast) && decide (offset.toNat % 8 ≠ 0)

/-- The condition of the two INVALID rows: `offset > 0x50` (R127). -/
def offsetInvalid (offset : Word) : Bool := decide (offset.toNat > Config.windowLast)

/-- The instruction is one that some transaction of the Host denotes. -/
def Instr.wf : Instr → Bool
  | .rdReg0 size | .rdReg1 size | .rdReg2 size | .rdReg3 size => sizeOk size
  | .rdWo20 size | .rdWo28 size | .rdWo30 size | .rdWo38 size => sizeOk size
  | .rdWo40 size | .rdWo48 size | .rdWo50 size => sizeOk size
  | .rdUnmapped offset size => offsetUnmapped offset && sizeOk size
  | .rdInvalid offset size => offsetInvalid offset && sizeOk size
  | .wrReg0 value size | .wrReg1 value size | .wrReg2 value size | .wrReg3 value size =>
      sizeOk size && valueFits size value
  | .wrIrqRaise value size | .wrIrqLower value size => sizeOk size && valueFits size value
  | .wrDmaSrc value size | .wrDmaDst value size => sizeOk size && valueFits size value
  | .wrDmaLen value size | .wrDmaCmd value size => sizeOk size && valueFits size value
  | .wrDoorbell value size => sizeOk size && valueFits size value
  | .wrUnmapped offset value size => offsetUnmapped offset && (sizeOk size && valueFits size value)
  | .wrInvalid offset value size => offsetInvalid offset && (sizeOk size && valueFits size value)
  | .init | .reset | .finalize => true

end Sys2Proof
end

