-- ==== Sys2Proof/Decode.lean ====
section
/-! DEFINITION. Decoding: the access key to the instruction (R123), the opcode table as match and mask rows
(R124), the request and the byte packet that carries it (log entry 4), and after them the encoder and the
expansion of the pseudo-operations (R131). -/

namespace Sys2Proof

/-- The reads of the window, in the order of rule R123. -/
def decodeRead (offset : Word) (size : Nat) : Instr :=
  if offset = 0x00#64 then .rdReg0 size
  else if offset = 0x08#64 then .rdReg1 size
  else if offset = 0x10#64 then .rdReg2 size
  else if offset = 0x18#64 then .rdReg3 size
  else if offset = 0x20#64 then .rdWo20 size
  else if offset = 0x28#64 then .rdWo28 size
  else if offset = 0x30#64 then .rdWo30 size
  else if offset = 0x38#64 then .rdWo38 size
  else if offset = 0x40#64 then .rdWo40 size
  else if offset = 0x48#64 then .rdWo48 size
  else if offset = 0x50#64 then .rdWo50 size
  else .rdUnmapped offset size

/-- The writes of the window, in the order of rule R123. -/
def decodeWrite (offset value : Word) (size : Nat) : Instr :=
  if offset = 0x00#64 then .wrReg0 value size
  else if offset = 0x08#64 then .wrReg1 value size
  else if offset = 0x10#64 then .wrReg2 value size
  else if offset = 0x18#64 then .wrReg3 value size
  else if offset = 0x20#64 then .wrIrqRaise value size
  else if offset = 0x28#64 then .wrIrqLower value size
  else if offset = 0x30#64 then .wrDmaSrc value size
  else if offset = 0x38#64 then .wrDmaDst value size
  else if offset = 0x40#64 then .wrDmaLen value size
  else if offset = 0x48#64 then .wrDmaCmd value size
  else if offset = 0x50#64 then .wrDoorbell value size
  else .wrUnmapped offset value size

/-- `decode(W, offset)` (R123): the offset's validity first, then the mapped offsets, then the in-range
default. Total (R124); `value` and `size` are carried along and select nothing (R120, R129). -/
def decodeAccess (write : Bool) (offset value : Word) (size : Nat) : Instr :=
  if offset.toNat > Config.windowLast then
    if write then .wrInvalid offset value size else .rdInvalid offset size
  else if write then decodeWrite offset value size
  else decodeRead offset size

/-- Decoding as a function of the access key (R120). -/
def decodeKey (key : BitVec 65) (value : Word) (size : Nat) : Instr :=
  decodeAccess (keyWrite key) (keyOffset key) value size

/-- The instruction of a hook (R121). -/
def decodeHook : Hook → Instr
  | .init => .init
  | .reset => .reset
  | .finalize => .finalize

/-- The instruction of a request. The Environment delivers the low `8 * size` bits of a written value
(R85); the Dispatcher then decodes the key. -/
def decodeRequest : Request → Instr
  | .mmio write offset size value => decodeAccess write offset (deliverWrite size value) size
  | .hook h => decodeHook h

/-! ### The opcode table (R124) -/

/-- A row of spec/opcode_table.json of format MMIO: the key matches when it agrees with `pattern` on the
bits of `mask` and its offset meets `cond`; rows of priority 0 are tried before rows of priority 1. -/
structure TableRow where
  pattern : BitVec 65
  mask : BitVec 65
  priority : Nat
  cond : Word → Bool
  build : Word → Word → Nat → Instr

/-- The mask of an exact row. -/
def exactMask : BitVec 65 := 0x1FFFFFFFFFFFFFFFF#65

/-- The mask of a catch-all row: the bit `W` alone. -/
def catchAllMask : BitVec 65 := 0x10000000000000000#65

/-- An exact row: priority 0, no condition. -/
def exactRow (pattern : BitVec 65) (build : Word → Nat → Instr) : TableRow :=
  { pattern := pattern, mask := exactMask, priority := 0, cond := fun _ => true,
    build := fun _ value size => build value size }

/-- The table's read rows. -/
def readRows : List TableRow :=
  [ exactRow 0x00000000000000000#65 (fun _ size => .rdReg0 size),
    exactRow 0x00000000000000008#65 (fun _ size => .rdReg1 size),
    exactRow 0x00000000000000010#65 (fun _ size => .rdReg2 size),
    exactRow 0x00000000000000018#65 (fun _ size => .rdReg3 size),
    exactRow 0x00000000000000020#65 (fun _ size => .rdWo20 size),
    exactRow 0x00000000000000028#65 (fun _ size => .rdWo28 size),
    exactRow 0x00000000000000030#65 (fun _ size => .rdWo30 size),
    exactRow 0x00000000000000038#65 (fun _ size => .rdWo38 size),
    exactRow 0x00000000000000040#65 (fun _ size => .rdWo40 size),
    exactRow 0x00000000000000048#65 (fun _ size => .rdWo48 size),
    exactRow 0x00000000000000050#65 (fun _ size => .rdWo50 size),
    { pattern := 0x00000000000000000#65, mask := catchAllMask, priority := 1, cond := offsetUnmapped,
      build := fun offset _ size => .rdUnmapped offset size },
    { pattern := 0x00000000000000000#65, mask := catchAllMask, priority := 1, cond := offsetInvalid,
      build := fun offset _ size => .rdInvalid offset size } ]

/-- The table's write rows. -/
def writeRows : List TableRow :=
  [ exactRow 0x10000000000000000#65 .wrReg0,
    exactRow 0x10000000000000008#65 .wrReg1,
    exactRow 0x10000000000000010#65 .wrReg2,
    exactRow 0x10000000000000018#65 .wrReg3,
    exactRow 0x10000000000000020#65 .wrIrqRaise,
    exactRow 0x10000000000000028#65 .wrIrqLower,
    exactRow 0x10000000000000030#65 .wrDmaSrc,
    exactRow 0x10000000000000038#65 .wrDmaDst,
    exactRow 0x10000000000000040#65 .wrDmaLen,
    exactRow 0x10000000000000048#65 .wrDmaCmd,
    exactRow 0x10000000000000050#65 .wrDoorbell,
    { pattern := 0x10000000000000000#65, mask := catchAllMask, priority := 1, cond := offsetUnmapped,
      build := fun offset value size => .wrUnmapped offset value size },
    { pattern := 0x10000000000000000#65, mask := catchAllMask, priority := 1, cond := offsetInvalid,
      build := fun offset value size => .wrInvalid offset value size } ]

/-- The 26 access-word rows of spec/opcode_table.json. -/
def tableRows : List TableRow := readRows ++ writeRows

/-- The row matches the key. -/
def rowMatches (key : BitVec 65) (row : TableRow) : Bool :=
  (key &&& row.mask == row.pattern) && row.cond (keyOffset key)

/-- The rows of priority `p` that match the key. -/
def rowsMatching (p : Nat) (key : BitVec 65) : List TableRow :=
  tableRows.filter fun row => row.priority == p && rowMatches key row

/-- What the table selects for a key: the matching rows of priority 0 or, where there is none, those of
priority 1 (R124), each with the instruction it stands for. -/
def tableSelect (key : BitVec 65) (value : Word) (size : Nat) : List Instr :=
  let exact := rowsMatching 0 key
  (if exact.isEmpty then rowsMatching 1 key else exact).map fun row =>
    row.build (keyOffset key) value size

/-! ### The packet: a request as bytes (log entry 4)

Bytes 0 to 7 are the offset, byte 8 the control byte, bytes 9 to 16 the value, each word little-endian.
Control byte: bit 0 is `W`, so that packet bits 64 to 0 are the access key (R120); bits 2:1 the entry
point (0 the register window, 1 `init`, 2 `reset`, 3 `finalize`); bits 7:3 the size, 0 standing for 8. -/

/-- Why bytes are not a transaction. -/
inductive DecodeError where
  /-- fewer bytes than a packet has -/
  | truncated
  /-- the access size is not one the Host may use (R13) -/
  | accessSize (size : Nat)
  deriving DecidableEq, Repr

/-- How many bytes a packet has. -/
def packetBytes : Nat := 17

/-- The request of a control byte and the two words beside it. -/
def requestOfFields (offset : Word) (control : Byte) (value : Word) : Request :=
  let entry := control.extractLsb' 1 2
  let size := (control.extractLsb' 3 5).toNat
  if entry = 1#2 then .hook .init
  else if entry = 2#2 then .hook .reset
  else if entry = 3#2 then .hook .finalize
  else .mmio (control.getLsbD 0) offset (if size = 0 then 8 else size) value

/-- The request a packet carries and the bytes after it; none where the packet is cut short. -/
def parsePacket (bytes : List Byte) : Option (Request × List Byte) :=
  if bytes.length < packetBytes then none
  else
    some (requestOfFields (wordOfBytes (bytes.take 8)) (bytes.getD 8 0) (wordOfBytes ((bytes.drop 9).take 8)),
      bytes.drop packetBytes)

/-- The access size of a request is one the Host may use; a hook has none (R13, R121). -/
def requestSizeError : Request → Option DecodeError
  | .mmio _ _ size _ => if sizeOk size then none else some (.accessSize size)
  | .hook _ => none

/-- The decoder on bytes: the instruction and the bytes after its packet, or why there is none. -/
def decode (bytes : List Byte) : Except DecodeError (Instr × List Byte) :=
  match parsePacket bytes with
  | none => .error .truncated
  | some (request, rest) =>
    match requestSizeError request with
    | some e => .error e
    | none => .ok (decodeRequest request, rest)

/-- A number's low bytes as a packet, byte 0 first. -/
def packetOfNat (n : Nat) : List Byte :=
  (List.range packetBytes).map fun j => BitVec.ofNat 8 (n / 2 ^ (8 * j))

/-- The instruction whose bits, numbered as spec/opcode_table.json numbers them, are the low `nbits` bits of
`w`, every higher bit zero. -/
def decodeTableWord (nbits w : Nat) : Option Instr :=
  match decode (packetOfNat (w % 2 ^ nbits)) with
  | .ok (i, _) => some i
  | .error _ => none

/-! ### The encoder -/

/-- The register-window request of offset `o`, `W = 0`. -/
def readRequest (o : Word) (size : Nat) : Request := .mmio false o size 0

/-- The register-window request of offset `o`, `W = 1`. -/
def writeRequest (o value : Word) (size : Nat) : Request := .mmio true o size value

/-- The request an instruction is offered by, from the register map (R125). -/
def requestOf : Instr → Request
  | .rdReg0 size => readRequest 0x00 size
  | .rdReg1 size => readRequest 0x08 size
  | .rdReg2 size => readRequest 0x10 size
  | .rdReg3 size => readRequest 0x18 size
  | .rdWo20 size => readRequest 0x20 size
  | .rdWo28 size => readRequest 0x28 size
  | .rdWo30 size => readRequest 0x30 size
  | .rdWo38 size => readRequest 0x38 size
  | .rdWo40 size => readRequest 0x40 size
  | .rdWo48 size => readRequest 0x48 size
  | .rdWo50 size => readRequest 0x50 size
  | .rdUnmapped offset size => readRequest offset size
  | .rdInvalid offset size => readRequest offset size
  | .wrReg0 value size => writeRequest 0x00 value size
  | .wrReg1 value size => writeRequest 0x08 value size
  | .wrReg2 value size => writeRequest 0x10 value size
  | .wrReg3 value size => writeRequest 0x18 value size
  | .wrIrqRaise value size => writeRequest 0x20 value size
  | .wrIrqLower value size => writeRequest 0x28 value size
  | .wrDmaSrc value size => writeRequest 0x30 value size
  | .wrDmaDst value size => writeRequest 0x38 value size
  | .wrDmaLen value size => writeRequest 0x40 value size
  | .wrDmaCmd value size => writeRequest 0x48 value size
  | .wrDoorbell value size => writeRequest 0x50 value size
  | .wrUnmapped offset value size => writeRequest offset value size
  | .wrInvalid offset value size => writeRequest offset value size
  | .init => .hook .init
  | .reset => .hook .reset
  | .finalize => .hook .finalize

/-- The control byte of a request. -/
def controlByte : Request → Byte
  | .mmio write _ size _ => BitVec.ofNat 8 (8 * (size % 8) + write.toNat)
  | .hook .init => 2
  | .hook .reset => 4
  | .hook .finalize => 6

/-- The packet of a request. -/
def packetOf : Request → List Byte
  | .mmio write offset size value =>
      bytesOfWord 8 offset ++ controlByte (.mmio write offset size value) :: bytesOfWord 8 value
  | .hook h => bytesOfWord 8 0 ++ controlByte (.hook h) :: bytesOfWord 8 0

/-- The packet of an instruction. -/
def encode (i : Instr) : List Byte := packetOf (requestOf i)

/-! ### Pseudo-operations (R131) -/

/-- The lines a pseudo-operation stands for, each of size 8; the value 0 is arbitrary where the write
ignores it. -/
def expandPseudo : Pseudo → List Request
  | .setreg i v => [writeRequest (BitVec.ofNat 64 (8 * i.val)) v 8]
  | .getreg i => [readRequest (BitVec.ofNat 64 (8 * i.val)) 8]
  | .irqRaise => [writeRequest 0x20 0 8]
  | .irqLower => [writeRequest 0x28 0 8]
  | .dmaSrc v => [writeRequest 0x30 v 8]
  | .dmaDst v => [writeRequest 0x38 v 8]
  | .dmaLen v => [writeRequest 0x40 v 8]
  | .dmaCmd v => [writeRequest 0x48 v 8]
  | .dmaToDev src dst len =>
      [writeRequest 0x30 src 8, writeRequest 0x38 dst 8, writeRequest 0x40 len 8, writeRequest 0x48 1 8]
  | .dmaFromDev src dst len =>
      [writeRequest 0x30 src 8, writeRequest 0x38 dst 8, writeRequest 0x40 len 8, writeRequest 0x48 2 8]
  | .ring => [writeRequest 0x50 0 8]

end Sys2Proof
end

