-- ==== Sys2Proof/Machine/State.lean ====
section
/-! DEFINITION. The state of the machine: the Device record (R40) and around it the parameters (R8), the
lifecycle, the event trace (R28) and what the outside world offers and answers. All of it plain data. -/

namespace Sys2Proof.Machine

/-- Bytes by index, in one canonical form: indexes strictly rising, no entry equal to what an unlisted index
reads as, which is 0, the buffer's content after `init` and `reset` (R51). -/
abbrev Memory := List Host.Cell

/-- DMA status (R49). -/
inductive DmaStatus where
  | idle
  | executing
  | off
  deriving DecidableEq, Repr

/-- The phase of an accepted doorbell (R57, R330). -/
inductive DmaPhase where
  | started
  | awaitBus
  | raised
  deriving DecidableEq, Repr

/-- The DMA configuration (R46). -/
structure DmaConfig where
  src : Word
  dst : Word
  len : Word
  cmd : Word
  mask : Word
  deriving DecidableEq, Repr

/-- The interrupt state (R52): one pin, or 32 message vectors. -/
inductive IrqState where
  | pin (raised : Bool)
  | message (raised : Vector Bool 32)
  deriving DecidableEq, Repr

/-- The kinds of the optional log events (R305). -/
inductive LogKind where
  | invalidRegisterAccess
  | configWhileBusy
  | transferOutOfBounds
  | vectorOutOfRange
  | busTransferFailure
  | addressMasked
  deriving DecidableEq, Repr

/-- The events of the trace (R28). The level of `assertLine` is `true` for 1 and `false` for 0. -/
inductive Event where
  | busRead (addr len : Word)
  | busWrite (addr : Word) (data : List Byte)
  | notify (vector : Nat)
  | assertLine (level : Bool)
  | queryMsi
  | releaseVectors
  | log (kind : LogKind)
  deriving DecidableEq, Repr

/-- The reasons a step faults (`FaultReason`, R310). A fault marks a run the source gives no meaning; it is
sticky, and no step follows it. Each is safe: the model stops where the hardware might go on. -/
inductive Fault where
  /-- A transfer's buffer range passes the end of the buffer (R215): raised by `WR_DOORBELL` and by the DMA
  agent's issue phase. Safe. -/
  | bufferOverrun
  /-- A message-mode `raise` or `lower` after the vectors were released (R276): raised by `WR_IRQ_RAISE` and
  `WR_IRQ_LOWER` after `FINALIZE`. Safe. -/
  | irqAfterRelease
  /-- `RESET` or `FINALIZE` while status is Off (R363). Safe. -/
  | lifecycleAfterFinalize
  /-- A second `INIT` (R364). Safe. -/
  | initTwice
  /-- A hook while a doorbell is in flight (R331): raised by `INIT`, `RESET`, `FINALIZE`. Safe. -/
  | lifecycleDuringTransfer
  deriving DecidableEq, Repr

/-- The reasons there is *no step* (R11, R311): the Host broke a duty of rule R13, or the Environment that of
rule R27. -/
inductive Refusal where
  /-- An instruction without a meaning yet, refused by exec's own arm. Safe. -/
  | notModelled (mnemonic : String)
  /-- A transaction before `INIT`: the Device does not exist (R365). Raised by every other transaction. Safe. -/
  | beforeInit
  /-- A transaction after device teardown (R13, R311). Raised by every transaction. Safe. -/
  | afterTeardown
  /-- An access size outside 4 to 8 (R13). Raised by every register-window access. Safe. -/
  | accessSize (size : Nat)
  /-- The bus-transfer call of a doorbell never returns (R27, R311), so the step that needs its answer does not
  exist: raised by `WR_DOORBELL` when accesses are serialized and by the DMA agent's land phase. Safe. -/
  | busNeverReturns
  deriving DecidableEq, Repr

/-- The state of one device: the Device record of rule R40. -/
structure Device where
  /-- R41 -/
  reg : Vector Word 4
  /-- R46 -/
  dma : DmaConfig
  /-- R49 -/
  status : DmaStatus
  /-- R51: `buf[k]` is the byte at index `k`, below 4096 -/
  buf : Memory
  /-- R52 -/
  irq : IrqState
  /-- R55 -/
  released : Bool
  /-- R56 -/
  fault : Option Fault
  /-- R57 -/
  inflight : Option DmaPhase
  deriving DecidableEq, Repr

/-- Where the device is in its life: not yet created by `init` (R365), created, or destroyed at device
teardown (R40). -/
inductive Life where
  | absent
  | present
  | tornDown
  deriving DecidableEq, Repr

/-- What the last transaction returned (R150, R151): a read its 64-bit value, of which an access of `size`
bytes presents the low bytes (R85); a write or a hook nothing. -/
inductive Reply where
  | data (size : Nat) (value : Word)
  | ack
  deriving DecidableEq, Repr

/-- A scripted answer of the Environment to one bus-transfer call (R21, R22): whether it succeeded and, for a
read, the bytes it returned. -/
structure BusAnswer where
  ok : Bool
  data : List Byte
  deriving DecidableEq, Repr

/-- How a bus-transfer call ends (R27): the Environment answers it, as it owes to, or it never returns and the
transaction that made it stays unfinished for ever. -/
inductive BusOutcome where
  | answers (answer : BusAnswer)
  | neverReturns
  deriving DecidableEq, Repr

/-- What moves next: the Host with a transaction, the DMA agent with the next phase of the doorbell in
flight (R10, R330), or the hosting emulator tearing the device down (R40). Log entries 3 and 19. -/
inductive Turn where
  | host (request : Request)
  | dmaAgent
  | teardown
  deriving DecidableEq, Repr

/-- The state of the machine. -/
structure State where
  /-- the parameters (R8); no step changes them -/
  cfg : Cfg
  /-- whether the Device exists -/
  life : Life
  /-- the Device record (R40); it has no meaning while `life` is absent -/
  dev : Device
  /-- the events emitted so far, oldest first (R28) -/
  trace : List Event
  /-- what the last completed transaction returned; none before the first, and while an accepted doorbell's
  write has not returned (log entry 11) -/
  reply : Option Reply
  /-- the turns offered and not yet taken, the next one first (log entry 3) -/
  inbox : List Turn
  /-- how the Environment ends the bus-transfer calls to come, the next one first; where it is empty the call
  is answered, by a free value (log entry 5) -/
  env : List BusOutcome
  /-- how many draws were made: the argument of the free values (log entry 18) -/
  draws : Nat
  deriving DecidableEq, Repr

/-- The configuration with its four mutable fields zero (R230). -/
def DmaConfig.zeroed (mask : Word) : DmaConfig := { src := 0#64, dst := 0#64, len := 0#64, cmd := 0#64, mask := mask }

/-- The Device right after `init` with the parameters `cfg` (R350; the `after init` column of 10_state.md
section 10). -/
def Device.initial (cfg : Cfg) : Device :=
  { reg := Vector.replicate 4 0#64
    dma := DmaConfig.zeroed (capabilityMask cfg.addrWidth)
    status := .idle
    buf := []
    irq := if cfg.msiNegotiated then .message (Vector.replicate 32 false) else .pin false
    released := false
    fault := none
    inflight := none }

/-- The machine whose Device is as `init` leaves it under the parameters `cfg`, nothing offered, nothing
emitted. -/
def State.resetWith (cfg : Cfg) : State :=
  { cfg := cfg, life := .present, dev := Device.initial cfg, trace := [], reply := none, inbox := [],
    env := [], draws := 0 }

/-- The machine before `init`: the Device does not exist (R365). -/
def State.powerOn (cfg : Cfg) : State := { State.resetWith cfg with life := .absent }

/-- The machine right after reset (log entries 1 and 2). -/
def State.reset : State := State.resetWith Cfg.default

end Sys2Proof.Machine
end

