-- ==== Sys2Proof/Machine/Flags.lean ====
section
/-! DEFINITION. The status flags. The core has no condition codes (10_state.md section 5); its flags are the
DMA status with its compare-and-swap (R49, R101) and the interrupt raised flags (R54). -/

namespace Sys2Proof.Machine

/-- `CAS(status, old, new)` (R17, R101): whether the swap was won, and the status after it. -/
def casStatus (status old new : DmaStatus) : Bool × DmaStatus :=
  if status = old then (true, new) else (false, status)

/-- `Message.raised[v]`; false for a vector the device does not hold (R54). -/
def vectorFlag (raised : Vector Bool 32) (v : Nat) : Bool := raised[v]?.getD false

/-- `raised[v] <- b` for a vector the device holds (R54). -/
def setVectorFlag (raised : Vector Bool 32) (v : Nat) (b : Bool) : Vector Bool 32 :=
  raised.setIfInBounds v b

/-- The device delivers interrupts as messages (R52). -/
def isMessage : IrqState → Bool
  | .pin _ => false
  | .message _ => true

/-- The raised flag of a vector: the pin flag in pin mode, whatever the vector (R54, R261). -/
def raisedFlag (irq : IrqState) (v : Nat) : Bool :=
  match irq with
  | .pin raised => raised
  | .message raised => vectorFlag raised v

end Sys2Proof.Machine
end

