-- ==== Sys2Proof/Machine/Memory.lean ====
section
/-! DEFINITION. The named operations over the DMA buffer (R18, R51): reading and writing bytes of a memory
held as a canonical list of its non-zero bytes, and the form every operation keeps. -/

namespace Sys2Proof.Machine

/-- Byte `a` of the memory; an unlisted byte reads as 0 (R51). -/
def Memory.read : Memory → Nat → Byte
  | [], _ => 0#8
  | (c, v) :: rest, a => if c = a then v else Memory.read rest a

/-- The memory with byte `a` set to `b`; writing 0 removes the entry. -/
def Memory.write : Memory → Nat → Byte → Memory
  | [], a, b => if b = 0#8 then [] else [(a, b)]
  | (c, v) :: rest, a, b =>
    if a < c then (if b = 0#8 then (c, v) :: rest else (a, b) :: (c, v) :: rest)
    else if a = c then (if b = 0#8 then rest else (a, b) :: rest)
    else (c, v) :: Memory.write rest a b

/-- `buf[k .. k+n)`, byte `k` first (`BufRead`, R18). -/
def Memory.readBytes (m : Memory) (k n : Nat) : List Byte :=
  (List.range n).map fun j => Memory.read m (k + j)

/-- `buf[k .. k + length) <- bytes` (`BufWrite`, R18). -/
def Memory.writeBytes (m : Memory) (k : Nat) : List Byte → Memory
  | [] => m
  | b :: rest => Memory.writeBytes (Memory.write m k b) (k + 1) rest

/-- Every entry has an index from `lo` on and below the buffer's size, indexes rise strictly, and no entry
holds 0. -/
def Memory.wfFrom : Nat → Memory → Bool
  | _, [] => true
  | lo, (c, v) :: rest =>
    decide (lo ≤ c) && decide (c < Config.areaSize) && (v != 0#8) && Memory.wfFrom (c + 1) rest

/-- The canonical form of the DMA buffer. -/
def Memory.wf (m : Memory) : Bool := Memory.wfFrom 0 m

end Sys2Proof.Machine
end

