-- ==== Sys2Proof/Machine/Ops.lean ====
section
/-! DEFINITION. The shared operations: writing one field of the State, the trace and the log points (R17,
R26, R305), the Environment's answers (R21, R22, R27), raising a fault (R310), the gate every transaction
passes (R11, R150, R151), and delivering an interrupt and taking it back: `raise` and `lower` (R261 to R264,
R320, R321). -/

namespace Sys2Proof.Machine

/-- How a step of this machine ends. -/
abbrev Result := Host.Outcome State Fault Refusal

/-- Go on from a next state; a fault or a refusal ends the step (R19). -/
def andThen (r : Result) (k : State → Result) : Result :=
  match r with
  | .next s => k s
  | .fault f => .fault f
  | .refused f => .refused f

/-! ### Writing one field -/

def State.setLife (s : State) (life : Life) : State := { s with life := life }

def State.setReply (s : State) (reply : Option Reply) : State := { s with reply := reply }

def State.setInbox (s : State) (inbox : List Turn) : State := { s with inbox := inbox }

def State.setDev (s : State) (dev : Device) : State := { s with dev := dev }

/-- `reg[i] <- v` (R16). -/
def State.setReg (s : State) (i : Fin 4) (v : Word) : State :=
  { s with dev := { s.dev with reg := s.dev.reg.set i v } }

/-- Every general register zero (R360). -/
def State.clearRegs (s : State) : State :=
  { s with dev := { s.dev with reg := Vector.replicate 4 0#64 } }

def State.setDma (s : State) (dma : DmaConfig) : State := { s with dev := { s.dev with dma := dma } }

def State.setStatus (s : State) (status : DmaStatus) : State :=
  { s with dev := { s.dev with status := status } }

def State.setBuf (s : State) (buf : Memory) : State := { s with dev := { s.dev with buf := buf } }

def State.setIrq (s : State) (irq : IrqState) : State := { s with dev := { s.dev with irq := irq } }

def State.setReleased (s : State) (released : Bool) : State :=
  { s with dev := { s.dev with released := released } }

def State.setFault (s : State) (fault : Option Fault) : State :=
  { s with dev := { s.dev with fault := fault } }

def State.setInflight (s : State) (inflight : Option DmaPhase) : State :=
  { s with dev := { s.dev with inflight := inflight } }

/-! ### Events and log points -/

/-- `emit(e)` (R17). -/
def State.emit (s : State) (e : Event) : State := { s with trace := s.trace ++ [e] }

/-- The code of a log kind (R305, D14). -/
def logCode : LogKind → Nat
  | .invalidRegisterAccess => 1
  | .configWhileBusy => 2
  | .transferOutOfBounds => 3
  | .vectorOutOfRange => 4
  | .busTransferFailure => 5
  | .addressMasked => 6

/-- What the log point reached at draw `n` emits: the event or nothing, a free value (R26, log entry 6). -/
def logEvents (n : Nat) (kind : LogKind) : List Event :=
  if Config.logDraw n then [.log kind] else []

/-- `log?(kind)` (R17, R26). -/
def State.logPoint (s : State) (kind : LogKind) : State :=
  { s with trace := s.trace ++ logEvents s.draws kind, draws := s.draws + 1 }

/-- `if c: log?(kind)`. -/
def State.logWhen (s : State) (c : Bool) (kind : LogKind) : State :=
  if c then s.logPoint kind else s

/-! ### The Environment's answers -/

/-- The bus-transfer call made now returns: the Environment meets its duty unless the script says that it does
not (R27, log entry 5). -/
def State.busReturns (s : State) : Bool := s.env.head? != some .neverReturns

/-- The answer to the bus-transfer call made now, meant where the call returns: the next scripted one or, where
none is scripted, a free one (R27, log entry 5). -/
def State.busAnswer (s : State) : BusAnswer :=
  match s.env with
  | .answers a :: _ => a
  | _ => { ok := Config.busOk s.draws, data := [] }

/-- The answer has been taken. -/
def State.takeAnswer (s : State) : State := { s with env := s.env.tail, draws := s.draws + 1 }

/-- Byte `j` of a bus read answered by `a` at draw `n`: the byte the bus returned when the call succeeded;
a drawn byte when it failed (R21, R217), and where the script does not give the byte (log entry 5). -/
def landedByte (a : BusAnswer) (n j : Nat) : Byte :=
  if a.ok then a.data[j]?.getD (Config.drawnByte n j) else Config.drawnByte n j

/-- The `len` bytes a bus read answered by `a` at draw `n` leaves (R21). -/
def landedBytes (a : BusAnswer) (n len : Nat) : List Byte :=
  (List.range len).map (landedByte a n)

/-! ### Faults and gates -/

/-- `raise Fault(r)` (R17, R310): the step ends. -/
def raiseFault (r : Fault) : Result := .fault r

/-- The Device record a run that faulted with `r` is left in: `fault` is set and nothing else (R56, log
entry 8). DESIGN CHOICE (log entry 24): the fields are those before the faulting step, so a serialized doorbell that
faults `bufferOverrun` leaves status Idle, although the pseudocode of R210 has swapped it to Executing by then; R215
says that no further state is written and leaves the status open. -/
def State.faulted (s : State) (r : Fault) : State := s.setFault (some r)

/-- The gate of every step that needs the Device: it exists (R311) and has not faulted (R56, R150). -/
def whenAlive (s : State) (k : State → Result) : Result :=
  match s.life with
  | .absent => .refused .beforeInit
  | .tornDown => .refused .afterTeardown
  | .present =>
    match s.dev.fault with
    | some r => raiseFault r
    | none => k s

/-- The gate of a register-window access: the size is one the Host may use (R13, R150, R151). -/
def whenSize (size : Nat) (s : State) (k : State → Result) : Result :=
  whenAlive s fun s => if sizeOk size then k s else .refused (.accessSize size)

/-- A register-window read that returns `value`: no Device state changes and nothing is emitted (R93, R150). -/
def returnData (size : Nat) (value : Word) (s : State) : Result :=
  .next (s.setReply (some (.data size value)))

/-- A write or a hook returns, with nothing (R151). -/
def returnAck (s : State) : Result := .next (s.setReply (some .ack))

/-! ### Interrupt delivery (R320) and its counterpart (R321) -/

/-- `raise(vector)` in both modes (R261, R262). -/
def raiseIrq (vector : Nat) (s : State) : Result :=
  match s.dev.irq with
  | .pin _ => .next ((s.setIrq (.pin true)).emit (.assertLine true))
  | .message raised =>
    if s.dev.released then raiseFault .irqAfterRelease
    else if vector ≥ 32 then .next (s.logPoint .vectorOutOfRange)
    else .next ((s.setIrq (.message (setVectorFlag raised vector true))).emit (.notify vector))

/-- `lower(vector)` in both modes (R263, R264). -/
def lowerIrq (vector : Nat) (s : State) : Result :=
  match s.dev.irq with
  | .pin _ => .next ((s.setIrq (.pin false)).emit (.assertLine false))
  | .message raised =>
    if s.dev.released then raiseFault .irqAfterRelease
    else if vector ≥ 32 then .next (s.logPoint .vectorOutOfRange)
    else if vectorFlag raised vector = false then .next s
    else .next (s.setIrq (.message (setVectorFlag raised vector false)))

/-- `irq_reset()` (R270): lowers every vector of the device's fixed range, vector 0. -/
def irqReset (s : State) : Result := lowerIrq Config.completionVector s

/-- `irq_init()` (R260): asks the Environment once and selects the mode. -/
def irqInit (s : State) : State :=
  let s := s.emit .queryMsi
  let s := s.setIrq (if s.cfg.msiNegotiated then .message (Vector.replicate 32 false) else .pin false)
  s.setReleased false

/-- `irq_finalize()` (R275). -/
def irqFinalize (s : State) : Result :=
  andThen (irqReset s) fun s =>
    if isMessage s.dev.irq then .next ((s.emit .releaseVectors).setReleased true) else .next s

end Sys2Proof.Machine
end

