-- ==== Sys2Proof/Machine/Dma.lean ====
section
/-! DEFINITION. The DMA Engine: the configuration writes (R162 to R165, R200 to R204), the doorbell (R166,
R210) with its phases (R212 to R221, R330), the DMA agent, and the engine's lifecycle (R230 to R232). -/

namespace Sys2Proof.Machine

/-! ### Configuration (R204) -/

/-- The configuration gate (R204): the field is stored when status is Idle; otherwise the write is dropped,
a log point and nothing else. -/
def configure (dma : DmaConfig → DmaConfig) (size : Nat) (s : State) : Result :=
  whenSize size s fun s =>
    if s.dev.status = .idle then returnAck (s.setDma (dma s.dev.dma))
    else returnAck (s.logPoint .configWhileBusy)

/-- WR_DMA_SRC (R162, R200). -/
def execWrDmaSrc (value : Word) (size : Nat) (s : State) : Result :=
  configure (fun d => { d with src := value }) size s

/-- WR_DMA_DST (R163, R201). -/
def execWrDmaDst (value : Word) (size : Nat) (s : State) : Result :=
  configure (fun d => { d with dst := value }) size s

/-- WR_DMA_LEN (R164, R202). -/
def execWrDmaLen (value : Word) (size : Nat) (s : State) : Result :=
  configure (fun d => { d with len := value }) size s

/-- WR_DMA_CMD (R165, R203). -/
def execWrDmaCmd (value : Word) (size : Nat) (s : State) : Result :=
  configure (fun d => { d with cmd := value }) size s

/-! ### A transfer: the issue phase and the land phase -/

/-- The device-side address of the configured transfer: `dst` to the device, `src` from it (R213, R214);
none for a command that is not a transfer (R212: the whole 64-bit word is compared). -/
def deviceSide (d : DmaConfig) : Option Word :=
  if d.cmd = Config.cmdToDevice then some d.dst
  else if d.cmd = Config.cmdFromDevice then some d.src
  else none

/-- The bus-side address of the configured transfer, before masking (R213, R214). -/
def busSide (d : DmaConfig) : Word := if d.cmd = Config.cmdToDevice then d.src else d.dst

/-- The event of the bus-transfer call (R21, R22): a read of `len` bytes, or a write of the `len` buffer
bytes from `off`. -/
def busEvent (d : DmaConfig) (off : Nat) (buf : Memory) : Event :=
  if d.cmd = Config.cmdToDevice then .busRead (maskedAddr d.src d.mask) d.len
  else .busWrite (maskedAddr d.dst d.mask) (buf.readBytes off d.len.toNat)

/-- How the issue phase ends: with the bus-transfer call made, or without one. -/
inductive Issued where
  | call (s : State)
  | noCall (s : State)
  | fault (r : Fault)
  deriving DecidableEq, Repr

/-- The issue phase (R330): `execute` up to and including the bus-transfer call, its tests in the order of
rule R319, steps 2 to 5: the command, the window, the mask, the overrun (R212 to R216). -/
def issue (s : State) : Issued :=
  match deviceSide s.dev.dma with
  | none => .noCall s
  | some a =>
    if inWindow a then
      let bus := busSide s.dev.dma
      let s := s.logWhen (maskedAddr bus s.dev.dma.mask != bus) .addressMasked
      if overruns (bufOffset a) s.dev.dma.len then .fault .bufferOverrun
      else .call (s.emit (busEvent s.dev.dma (bufOffset a) s.dev.buf))
    else .noCall (s.logPoint .transferOutOfBounds)

/-- `BufWrite(off, len, data)` (R18), defined only inside the buffer; outside it the fault of rule R215. -/
def bufWrite (off : Nat) (data : List Byte) (s : State) : Result :=
  if off + data.length > Config.areaSize then raiseFault .bufferOverrun
  else .next (s.setBuf (s.dev.buf.writeBytes off data))

/-- What the answer of the bus leaves in the buffer: `len` bytes from the offset for a transfer to the
device, nothing for one from it (R213, R214, R217). -/
def landBuffer (answer : BusAnswer) (n : Nat) (s : State) : Result :=
  if s.dev.dma.cmd = Config.cmdToDevice then
    if overruns (bufOffset s.dev.dma.dst) s.dev.dma.len then raiseFault .bufferOverrun
    else bufWrite (bufOffset s.dev.dma.dst) (landedBytes answer n s.dev.dma.len.toNat) s
  else .next s

/-- What the land phase does with the answer of the call: a failure is a log point (R217), the buffer is written
and the completion vector raised, success or failure (R218). -/
def landAnswer (s : State) : Result :=
  let answer := s.busAnswer
  let n := s.draws
  let s := s.takeAnswer.logWhen (!answer.ok) .busTransferFailure
  andThen (landBuffer answer n s) (raiseIrq Config.completionVector)

/-- The land phase (R330): the Environment's answer arrives. Where the call never returns the phase has no step, and
the doorbell stays unfinished for ever (R27, R311). -/
def land (s : State) : Result :=
  if s.busReturns then landAnswer s else .refused .busNeverReturns

/-- `execute()` (R212), the whole of it in one step. -/
def execute (s : State) : Result :=
  match issue s with
  | .noCall s => .next s
  | .fault r => raiseFault r
  | .call s => land s

/-! ### The doorbell (R210) -/

/-- The doorbell in one step, when accesses are serialized (R210): a lost compare-and-swap drops it; a won
one runs the transfer and sets status back to Idle before the write returns, which makes it the one ordering point
of the core (R99, R100). -/
def ringSerialized (s : State) : Result :=
  match casStatus s.dev.status .idle .executing with
  | (false, _) => returnAck s
  | (true, status) => andThen (execute (s.setStatus status)) fun s => returnAck (s.setStatus .idle)

/-- The accept phase, when accesses are not serialized (R330): a won compare-and-swap puts the doorbell in
flight, and its write does not return yet. -/
def ringAccept (s : State) : Result :=
  match casStatus s.dev.status .idle .executing with
  | (false, _) => returnAck s
  | (true, status) => .next (((s.setStatus status).setInflight (some .started)).setReply none)

/-- WR_DOORBELL (R166): the value is ignored. -/
def execWrDoorbell (_value : Word) (size : Nat) (s : State) : Result :=
  whenSize size s fun s => if s.cfg.serialized then ringSerialized s else ringAccept s

/-! ### The DMA agent (R330) -/

/-- The finish phase: status Idle, nothing in flight, the doorbell's write returns. -/
def finish (s : State) : Result := returnAck ((s.setStatus .idle).setInflight none)

/-- The issue phase as a step of the agent: a call leaves the phase AwaitBus; without one the agent goes to
finish. -/
def agentIssue (s : State) : Result :=
  match issue s with
  | .noCall s => .next (s.setInflight (some .raised))
  | .fault r => raiseFault r
  | .call s => .next (s.setInflight (some .awaitBus))

/-- The land phase as a step of the agent. -/
def agentLand (s : State) : Result :=
  andThen (land s) fun s => .next (s.setInflight (some .raised))

/-- The agent's next phase; with nothing in flight it has none and the state stays. -/
def agentPhase (s : State) : Result :=
  match s.dev.inflight with
  | none => .next s
  | some .started => agentIssue s
  | some .awaitBus => agentLand s
  | some .raised => finish s

/-- A turn of the DMA agent, and what happens when nothing is offered: a faulted Device has no further step
(R56); the agent moves where there is one, that is when accesses are not serialized (R10); a machine with
nothing to do waits (R365, log entry 3). -/
def agentTurn (s : State) : Result :=
  match s.life with
  | .absent => .next s
  | .tornDown => .next s
  | .present =>
    match s.dev.fault with
    | some r => raiseFault r
    | none => if s.cfg.serialized then .next s else agentPhase s

/-! ### Engine lifecycle -/

/-- `dma_reset()` (R230): status Idle, the four configuration fields zero, the buffer zero; the mask is
kept (C3). -/
def dmaReset (s : State) : State :=
  ((s.setStatus .idle).setDma (DmaConfig.zeroed s.dev.dma.mask)).setBuf []

/-- `dma_finalize()` (R231). -/
def dmaFinalize (s : State) : State := (dmaReset s).setStatus .off

/-- `dma_init(ADDR_WIDTH)` (R232). -/
def dmaInit (s : State) : State :=
  let s := dmaReset s
  s.setDma { s.dev.dma with mask := capabilityMask s.cfg.addrWidth }

end Sys2Proof.Machine
end

