-- ==== Sys2Proof/Machine/Irq.lean ====
section
/-! DEFINITION. The diagnostic interrupt writes: WR_IRQ_RAISE (R160) and WR_IRQ_LOWER (R161). -/

namespace Sys2Proof.Machine

/-- WR_IRQ_RAISE (R160): `raise(COMPLETION_VECTOR)`; the value is ignored. -/
def execWrIrqRaise (_value : Word) (size : Nat) (s : State) : Result :=
  whenSize size s fun s => andThen (raiseIrq Config.completionVector s) returnAck

/-- WR_IRQ_LOWER (R161): `lower(COMPLETION_VECTOR)`; the value is ignored. -/
def execWrIrqLower (_value : Word) (size : Nat) (s : State) : Result :=
  whenSize size s fun s => andThen (lowerIrq Config.completionVector s) returnAck

end Sys2Proof.Machine
end

