-- ==== Sys2Proof/Machine/Lifecycle.lean ====
section
/-! DEFINITION. The lifecycle hooks INIT (R350), RESET (R360) and FINALIZE (R362), and device teardown
(R40). -/

namespace Sys2Proof.Machine

/-- What `init` makes of the State: the three parts in the order of rule R350. -/
def initDevice (s : State) : State :=
  let s := irqInit (dmaInit s).clearRegs
  ((s.setFault none).setInflight none).setLife .present

/-- A second `init` (R364); while a doorbell is in flight it is a hook during a transfer (R331, log entry
10). -/
def initAgain (s : State) : Result :=
  if s.dev.inflight.isSome then raiseFault .lifecycleDuringTransfer else raiseFault .initTwice

/-- INIT (R350). -/
def execInit (s : State) : Result :=
  match s.life with
  | .absent => returnAck (initDevice s)
  | .present => whenAlive s initAgain
  | .tornDown => whenAlive s initAgain

/-- The checks of `reset` and `finalize` (R360, R362, R363, R331). -/
def whenHookAllowed (s : State) (k : State → Result) : Result :=
  whenAlive s fun s =>
    if s.dev.status = .off then raiseFault .lifecycleAfterFinalize
    else if s.dev.inflight.isSome then raiseFault .lifecycleDuringTransfer
    else k s

/-- RESET (R360). -/
def execReset (s : State) : Result :=
  whenHookAllowed s fun s => andThen (irqReset (dmaReset s.clearRegs)) returnAck

/-- FINALIZE (R362): the interrupt part first. -/
def execFinalize (s : State) : Result :=
  whenHookAllowed s fun s => andThen (irqFinalize s) fun s => returnAck (dmaFinalize s)

/-- Device teardown (R40): the Device is destroyed, and no transaction follows (R13). -/
def teardown (s : State) : Result := whenAlive s fun s => .next (s.setLife .tornDown)

end Sys2Proof.Machine
end

