-- ==== Sys2Proof/Machine/Registers.lean ====
section
/-! DEFINITION. The general registers: RD_REG0 to RD_REG3 (R152 to R155) and WR_REG0 to WR_REG3 (R156 to
R159). -/

namespace Sys2Proof.Machine

/-- `return reg[i]` (R150). -/
def readReg (i : Fin 4) (size : Nat) (s : State) : Result :=
  whenSize size s fun s => returnData size s.dev.reg[i] s

/-- `reg[i] <- value`, whole at every size (R151). -/
def writeReg (i : Fin 4) (value : Word) (size : Nat) (s : State) : Result :=
  whenSize size s fun s => returnAck (s.setReg i value)

/-- RD_REG0 (R152). -/
def execRdReg0 (size : Nat) (s : State) : Result := readReg 0 size s

/-- RD_REG1 (R153). -/
def execRdReg1 (size : Nat) (s : State) : Result := readReg 1 size s

/-- RD_REG2 (R154). -/
def execRdReg2 (size : Nat) (s : State) : Result := readReg 2 size s

/-- RD_REG3 (R155). -/
def execRdReg3 (size : Nat) (s : State) : Result := readReg 3 size s

/-- WR_REG0 (R156). -/
def execWrReg0 (value : Word) (size : Nat) (s : State) : Result := writeReg 0 value size s

/-- WR_REG1 (R157). -/
def execWrReg1 (value : Word) (size : Nat) (s : State) : Result := writeReg 1 value size s

/-- WR_REG2 (R158). -/
def execWrReg2 (value : Word) (size : Nat) (s : State) : Result := writeReg 2 value size s

/-- WR_REG3 (R159). -/
def execWrReg3 (value : Word) (size : Nat) (s : State) : Result := writeReg 3 value size s

end Sys2Proof.Machine
end

