-- ==== Sys2Proof/Machine/Window.lean ====
section
/-! DEFINITION. The offsets with no register behind them: the reads of the write-only offsets (R167 to R173)
and the unmapped and invalid offsets (R174 to R177). -/

namespace Sys2Proof.Machine

/-- `return ALL_ONES`, no side effect (R167 to R173, D3). -/
def readSentinel (size : Nat) (s : State) : Result :=
  whenSize size s fun s => returnData size Config.allOnes s

/-- `return ALL_ONES`, with the log point of an offset outside the mapped window (R174, R176, R300). -/
def readNowhere (size : Nat) (s : State) : Result :=
  whenSize size s fun s => returnData size Config.allOnes (s.logPoint .invalidRegisterAccess)

/-- `skip`, with the log point of an offset outside the mapped window (R175, R177, R300). -/
def writeNowhere (size : Nat) (s : State) : Result :=
  whenSize size s fun s => returnAck (s.logPoint .invalidRegisterAccess)

/-- RD_WO_20 (R167): does not raise. -/
def execRdWo20 (size : Nat) (s : State) : Result := readSentinel size s

/-- RD_WO_28 (R168): does not lower or acknowledge. -/
def execRdWo28 (size : Nat) (s : State) : Result := readSentinel size s

/-- RD_WO_30 (R169): `dma.src` is not readable. -/
def execRdWo30 (size : Nat) (s : State) : Result := readSentinel size s

/-- RD_WO_38 (R170). -/
def execRdWo38 (size : Nat) (s : State) : Result := readSentinel size s

/-- RD_WO_40 (R171). -/
def execRdWo40 (size : Nat) (s : State) : Result := readSentinel size s

/-- RD_WO_48 (R172). -/
def execRdWo48 (size : Nat) (s : State) : Result := readSentinel size s

/-- RD_WO_50 (R173): never rings the doorbell. -/
def execRdWo50 (size : Nat) (s : State) : Result := readSentinel size s

/-- RD_UNMAPPED (R174): the offset selects the row and has no further effect. -/
def execRdUnmapped (_offset : Word) (size : Nat) (s : State) : Result := readNowhere size s

/-- RD_INVALID (R176). -/
def execRdInvalid (_offset : Word) (size : Nat) (s : State) : Result := readNowhere size s

/-- WR_UNMAPPED (R175): the value is ignored. -/
def execWrUnmapped (_offset _value : Word) (size : Nat) (s : State) : Result := writeNowhere size s

/-- WR_INVALID (R177): the value is ignored. -/
def execWrInvalid (_offset _value : Word) (size : Nat) (s : State) : Result := writeNowhere size s

end Sys2Proof.Machine
end

