-- ==== Sys2Proof/Machine/Dispatch.lean ====
section
/-! DEFINITION. The dispatch of a decoded transaction to its meaning (R150, R151). -/

namespace Sys2Proof.Machine

def exec (i : Instr) (s : State) : Host.Outcome State Fault Refusal :=
  match i with
  | .rdReg0 size => Sys2Proof.Machine.execRdReg0 size s
  | .rdReg1 size => Sys2Proof.Machine.execRdReg1 size s
  | .rdReg2 size => Sys2Proof.Machine.execRdReg2 size s
  | .rdReg3 size => Sys2Proof.Machine.execRdReg3 size s
  | .rdWo20 size => Sys2Proof.Machine.execRdWo20 size s
  | .rdWo28 size => Sys2Proof.Machine.execRdWo28 size s
  | .rdWo30 size => Sys2Proof.Machine.execRdWo30 size s
  | .rdWo38 size => Sys2Proof.Machine.execRdWo38 size s
  | .rdWo40 size => Sys2Proof.Machine.execRdWo40 size s
  | .rdWo48 size => Sys2Proof.Machine.execRdWo48 size s
  | .rdWo50 size => Sys2Proof.Machine.execRdWo50 size s
  | .rdUnmapped offset size => Sys2Proof.Machine.execRdUnmapped offset size s
  | .rdInvalid offset size => Sys2Proof.Machine.execRdInvalid offset size s
  | .wrReg0 value size => Sys2Proof.Machine.execWrReg0 value size s
  | .wrReg1 value size => Sys2Proof.Machine.execWrReg1 value size s
  | .wrReg2 value size => Sys2Proof.Machine.execWrReg2 value size s
  | .wrReg3 value size => Sys2Proof.Machine.execWrReg3 value size s
  | .wrIrqRaise value size => Sys2Proof.Machine.execWrIrqRaise value size s
  | .wrIrqLower value size => Sys2Proof.Machine.execWrIrqLower value size s
  | .wrDmaSrc value size => Sys2Proof.Machine.execWrDmaSrc value size s
  | .wrDmaDst value size => Sys2Proof.Machine.execWrDmaDst value size s
  | .wrDmaLen value size => Sys2Proof.Machine.execWrDmaLen value size s
  | .wrDmaCmd value size => Sys2Proof.Machine.execWrDmaCmd value size s
  | .wrDoorbell value size => Sys2Proof.Machine.execWrDoorbell value size s
  | .wrUnmapped offset value size => Sys2Proof.Machine.execWrUnmapped offset value size s
  | .wrInvalid offset value size => Sys2Proof.Machine.execWrInvalid offset value size s
  | .init => Sys2Proof.Machine.execInit s
  | .reset => Sys2Proof.Machine.execReset s
  | .finalize => Sys2Proof.Machine.execFinalize s

end Sys2Proof.Machine
end

