-- ==== Sys2Proof/Machine/Step.lean ====
section
/-! DEFINITION. One step of the machine: the next turn offered is taken (R10, R330, log entry 3). -/

namespace Sys2Proof.Machine

/-- One step. The turns are taken in the order they are offered, each seeing every effect of the ones before it and
none of the ones after it; no effect is kept back, so no transaction is a fence (R98, R100). A transaction of the Host
is decoded and run; a turn of the DMA agent runs its next phase, and so does the machine when nothing is offered; a
teardown destroys the Device. -/
def step (s : State) : Host.Outcome State Fault Refusal :=
  match s.inbox with
  | [] => agentTurn s
  | .host request :: rest => exec (decodeRequest request) (s.setInbox rest)
  | .dmaAgent :: rest => agentTurn (s.setInbox rest)
  | .teardown :: rest => teardown (s.setInbox rest)

/-- The state with the transaction whose packet is the low `nbits` bits of `w`, every higher bit zero,
offered as the next turn. -/
def State.withFetchWord (s : State) (nbits w : Nat) : State :=
  match parsePacket (packetOfNat (w % 2 ^ nbits)) with
  | some (request, _) => s.setInbox (.host request :: s.inbox)
  | none => s

end Sys2Proof.Machine
end

