-- ==== Sys2Proof/Safety.lean ====
section
/-! DEFINITION. What statements are made of: when the Device takes a transaction, what counts as a legal
transfer, the level of the interrupt line, where a run ends, and the invariant of the machine. -/

namespace Sys2Proof

open Machine

/-- The Device exists and has not faulted: every transaction with a legal size has a step (R150, R311). -/
def Ready (s : State) : Prop := s.life = .present ∧ s.dev.fault = none

/-- Interrupts can be raised and lowered: the vectors of message mode have not been released (R276). -/
def IrqLive (s : State) : Prop := isMessage s.dev.irq = true → s.dev.released = false

/-- The device-side address is in the window and the transfer stays inside the buffer (R371). -/
def TransferFits (a len : Word) : Prop := inWindow a = true ∧ bufOffset a + len.toNat ≤ Config.areaSize

/-- The level the last `AssertLine` event of a trace drives, none before the first (R267). -/
def lineLevel : List Event → Option Bool
  | [] => none
  | e :: rest =>
    match lineLevel rest with
    | some b => some b
    | none =>
      match e with
      | .assertLine b => some b
      | _ => none

/-- The event delivers an interrupt: `Notify`, or `AssertLine(1)` (R316). -/
def deliversInterrupt : Event → Bool
  | .notify _ => true
  | .assertLine b => b
  | _ => false

/-- The event is a bus-transfer call (R20). -/
def isBusCall : Event → Bool
  | .busRead _ _ => true
  | .busWrite _ _ => true
  | _ => false

/-- The event is a log line (R305). -/
def isLog : Event → Bool
  | .log _ => true
  | _ => false

/-- The State a step leaves, for the observation of a run (R11): the next state or, after a fault, the state
with `fault` set (R56); where there is no step the state stays. -/
def settled (s : State) : State :=
  match step s with
  | .next t => t
  | .fault r => s.faulted r
  | .refused _ => s

/-- What the Host observes of a State through the register window (R58): the general registers. -/
def SameWindow (s t : State) : Prop :=
  s.life = t.life ∧ s.dev.fault = t.dev.fault ∧ s.dev.reg = t.dev.reg

/-- The phase AwaitBus is entered only by a transfer that fits (R330, R319). -/
def AwaitedFits (d : Device) : Prop :=
  d.inflight = some .awaitBus → ∃ a, deviceSide d.dma = some a ∧ TransferFits a d.dma.len

/-- The rules that relate the fields of a Device that exists. -/
structure DeviceInv (cfg : Cfg) (d : Device) : Prop where
  /-- R48: the mask is that of the parameter -/
  mask : d.dma.mask = capabilityMask cfg.addrWidth
  /-- R53: the interrupt mode is that of the parameter -/
  mode : isMessage d.irq = cfg.msiNegotiated
  /-- R57: status is Executing exactly when a doorbell is in flight -/
  inflight : d.status = .executing ↔ d.inflight ≠ none
  /-- R57: nothing is in flight when accesses are serialized -/
  serialized : cfg.serialized = true → d.inflight = none
  /-- R55, R362: the vectors are released exactly by `finalize` in message mode -/
  released : d.released = true ↔ d.status = .off ∧ isMessage d.irq = true
  /-- R266: no vector but 0 is ever raised -/
  vectors : ∀ raised, d.irq = .message raised → ∀ v, 0 < v → vectorFlag raised v = false
  /-- R319, R330 -/
  awaited : AwaitedFits d
  /-- R56: no next state carries a fault -/
  fault : d.fault = none

/-- The invariant of the machine. -/
structure Inv (s : State) : Prop where
  /-- R51: the buffer is 4096 bytes, in its canonical form -/
  buf : s.dev.buf.wf = true
  /-- the rules of a Device that exists, or existed -/
  device : s.life ≠ .absent → DeviceInv s.cfg s.dev
  /-- R267: the line level is the pin flag once the line has been driven -/
  line : s.life ≠ .absent → ∀ raised, s.dev.irq = .pin raised → ∀ l, lineLevel s.trace = some l → l = raised
  /-- before `init` the line has not been driven -/
  quiet : s.life = .absent → lineLevel s.trace = none

/-- The interrupt state after vector 0 is raised (R261, R262). -/
def irqRaised : IrqState → IrqState
  | .pin _ => .pin true
  | .message raised => .message (setVectorFlag raised 0 true)

/-- The interrupt state after vector 0 is lowered (R263, R264). -/
def irqLowered : IrqState → IrqState
  | .pin _ => .pin false
  | .message raised => .message (setVectorFlag raised 0 false)

/-- What a raise of vector 0 emits (R261, R262). -/
def raiseEvent : IrqState → Event
  | .pin _ => .assertLine true
  | .message _ => .notify 0

/-- What a lower of vector 0 emits (R263, R264). -/
def lowerEvents : IrqState → List Event
  | .pin _ => [.assertLine false]
  | .message _ => []

/-- The transaction is a register-window read. -/
def isRead : Instr → Bool
  | .rdReg0 _ | .rdReg1 _ | .rdReg2 _ | .rdReg3 _ => true
  | .rdWo20 _ | .rdWo28 _ | .rdWo30 _ | .rdWo38 _ | .rdWo40 _ | .rdWo48 _ | .rdWo50 _ => true
  | .rdUnmapped _ _ | .rdInvalid _ _ => true
  | .wrReg0 _ _ | .wrReg1 _ _ | .wrReg2 _ _ | .wrReg3 _ _ => false
  | .wrIrqRaise _ _ | .wrIrqLower _ _ => false
  | .wrDmaSrc _ _ | .wrDmaDst _ _ | .wrDmaLen _ _ | .wrDmaCmd _ _ => false
  | .wrDoorbell _ _ | .wrUnmapped _ _ _ | .wrInvalid _ _ _ => false
  | .init | .reset | .finalize => false

/-- The access size of a register-window access; a hook has none. -/
def accessSizeOf : Instr → Option Nat
  | .rdReg0 z | .rdReg1 z | .rdReg2 z | .rdReg3 z => some z
  | .rdWo20 z | .rdWo28 z | .rdWo30 z | .rdWo38 z | .rdWo40 z | .rdWo48 z | .rdWo50 z => some z
  | .rdUnmapped _ z | .rdInvalid _ z => some z
  | .wrReg0 _ z | .wrReg1 _ z | .wrReg2 _ z | .wrReg3 _ z => some z
  | .wrIrqRaise _ z | .wrIrqLower _ z => some z
  | .wrDmaSrc _ z | .wrDmaDst _ z | .wrDmaLen _ z | .wrDmaCmd _ z => some z
  | .wrDoorbell _ z | .wrUnmapped _ _ z | .wrInvalid _ _ z => some z
  | .init | .reset | .finalize => none

/-- The transaction is a write of general register `i`. -/
def writesReg (i : Fin 4) : Instr → Bool
  | .wrReg0 _ _ => i == 0
  | .wrReg1 _ _ => i == 1
  | .wrReg2 _ _ => i == 2
  | .wrReg3 _ _ => i == 3
  | _ => false

/-- The transaction is a DMA configuration write. -/
def isConfigWrite : Instr → Bool
  | .wrDmaSrc _ _ | .wrDmaDst _ _ | .wrDmaLen _ _ | .wrDmaCmd _ _ => true
  | _ => false

/-- The transaction is a lifecycle hook. -/
def isHook : Instr → Bool
  | .init | .reset | .finalize => true
  | _ => false

/-- The same state under the other serialization regime. -/
def withSerialized (b : Bool) (s : State) : State := { s with cfg := { s.cfg with serialized := b } }

/-- `n` turns of the DMA agent, ending at the first fault. -/
def agentTurns : Nat → State → Result
  | 0, s => .next s
  | n + 1, s => andThen (agentTurn s) (agentTurns n)

/-- The read of general register `i` (R42). -/
def readOf (i : Fin 4) (size : Nat) : Instr :=
  match i with
  | 0 => .rdReg0 size
  | 1 => .rdReg1 size
  | 2 => .rdReg2 size
  | 3 => .rdReg3 size

/-- The write of general register `i` (R42). -/
def writeOf (i : Fin 4) (value : Word) (size : Nat) : Instr :=
  match i with
  | 0 => .wrReg0 value size
  | 1 => .wrReg1 value size
  | 2 => .wrReg2 value size
  | 3 => .wrReg3 value size

/-- The transactions of a list, one after the other, ending at the first that has no next state (R98). -/
def execAll : List Instr → State → Result
  | [], s => .next s
  | i :: rest, s => andThen (exec i s) (execAll rest)

end Sys2Proof
end

