-- ==== Sys2Proof/Certificates/Slice0/Obligations.lean ====
section
/-! DEFINITION. The statements for the provers. Each docstring names the rules of spec/ it formalises; a statement
that is an equation `exec i s = .next …` is also the instruction's completion and its frame. -/

open Sys2Proof Sys2Proof.Machine

/-! ### Encoding and decoding -/

/-- R123 to R125, derived: the packet of every well-formed instruction, whatever follows it, decodes to that
instruction. The packet layout is the model's own (log entry 4). -/
def Obligations.EncodeDecodeRoundTrip : Prop :=
  ∀ (i : Instr) (rest : List Byte), i.wf = true → decode (encode i ++ rest) = .ok (i, rest)

/-- R123, R127: the decoder's order: above `0x50` invalid, whatever the offset's other bits; in range and not
a multiple of 8 unmapped; and the 22 mapped words. That the reads of the write-only offsets have words of their own
is the spec's decision D3. -/
def Obligations.DecodeFollowsTheRegisterMap : Prop :=
  (∀ (w : Bool) (o v : Word) (z : Nat), o.toNat > 0x50 →
    decodeAccess w o v z = if w then .wrInvalid o v z else .rdInvalid o z) ∧
  (∀ (w : Bool) (o v : Word) (z : Nat), o.toNat ≤ 0x50 → o.toNat % 8 ≠ 0 →
    decodeAccess w o v z = if w then .wrUnmapped o v z else .rdUnmapped o z) ∧
  ∀ (v : Word) (z : Nat),
    [0x00#64, 0x08#64, 0x10#64, 0x18#64, 0x20#64, 0x28#64, 0x30#64, 0x38#64, 0x40#64, 0x48#64, 0x50#64].map
        (fun o => decodeAccess false o v z) =
      [.rdReg0 z, .rdReg1 z, .rdReg2 z, .rdReg3 z, .rdWo20 z, .rdWo28 z, .rdWo30 z, .rdWo38 z, .rdWo40 z,
        .rdWo48 z, .rdWo50 z] ∧
    [0x00#64, 0x08#64, 0x10#64, 0x18#64, 0x20#64, 0x28#64, 0x30#64, 0x38#64, 0x40#64, 0x48#64, 0x50#64].map
        (fun o => decodeAccess true o v z) =
      [.wrReg0 v z, .wrReg1 v z, .wrReg2 v z, .wrReg3 v z, .wrIrqRaise v z, .wrIrqLower v z, .wrDmaSrc v z,
        .wrDmaDst v z, .wrDmaLen v z, .wrDmaCmd v z, .wrDoorbell v z]

/-- R124: every access key has exactly one instruction: the match and mask rows, priority 0 before priority 1,
select one row, and it is the decoder's; the catch-alls' conditions are disjoint from each other and from every
exact row. The spec marks the rule as its own inference from R123. -/
def Obligations.EveryKeySelectsExactlyOneRow : Prop :=
  (∀ (key : BitVec 65) (v : Word) (z : Nat), tableSelect key v z = [decodeKey key v z]) ∧
  (∀ o : Word, ¬ (offsetUnmapped o = true ∧ offsetInvalid o = true)) ∧
  ∀ row ∈ tableRows, row.priority = 0 →
    offsetUnmapped (keyOffset row.pattern) = false ∧ offsetInvalid (keyOffset row.pattern) = false

/-- R120 and the opcode table: one access word of each family, written out as the table numbers its bits. A word holds
no size and no value; that 72 bits are read with size 8 and value 0 is the model's choice of packet (log entry 4). -/
def Obligations.WordsOfEachFamilyDecode : Prop :=
  decodeTableWord 72 0x00000000000000010 = some (.rdReg2 8) ∧
  decodeTableWord 72 0x00000000000000048 = some (.rdWo48 8) ∧
  decodeTableWord 72 0x00000000000000004 = some (.rdUnmapped 4 8) ∧
  decodeTableWord 72 0x0FFFFFFFFFFFFFFFF = some (.rdInvalid 0xFFFFFFFFFFFFFFFF 8) ∧
  decodeTableWord 72 0x10000000000000018 = some (.wrReg3 0 8) ∧
  decodeTableWord 72 0x10000000000000020 = some (.wrIrqRaise 0 8) ∧
  decodeTableWord 72 0x10000000000000040 = some (.wrDmaLen 0 8) ∧
  decodeTableWord 72 0x10000000000000050 = some (.wrDoorbell 0 8) ∧
  decodeTableWord 72 0x1000000000000004F = some (.wrUnmapped 0x4F 0 8) ∧
  decodeTableWord 72 0x18000000000000000 = some (.wrInvalid 0x8000000000000000 0 8)

/-- R131: the pseudo-operations and their expansions; the value 0 of three of them is ignored. The
notation is the spec's decision D23. -/
def Obligations.PseudoOperationsExpand : Prop :=
  (∀ (i : Fin 4) (v : Word),
    (expandPseudo (.setreg i v)).map decodeRequest =
      [[Instr.wrReg0 v 8, .wrReg1 v 8, .wrReg2 v 8, .wrReg3 v 8][i.val]] ∧
    (expandPseudo (.getreg i)).map decodeRequest =
      [[Instr.rdReg0 8, .rdReg1 8, .rdReg2 8, .rdReg3 8][i.val]]) ∧
  (expandPseudo .irqRaise).map decodeRequest = [.wrIrqRaise 0 8] ∧
  (expandPseudo .irqLower).map decodeRequest = [.wrIrqLower 0 8] ∧
  (expandPseudo .ring).map decodeRequest = [.wrDoorbell 0 8] ∧
  (∀ v : Word, (expandPseudo (.dmaSrc v)).map decodeRequest = [.wrDmaSrc v 8] ∧
    (expandPseudo (.dmaDst v)).map decodeRequest = [.wrDmaDst v 8] ∧
    (expandPseudo (.dmaLen v)).map decodeRequest = [.wrDmaLen v 8] ∧
    (expandPseudo (.dmaCmd v)).map decodeRequest = [.wrDmaCmd v 8]) ∧
  (∀ (v : Word) (s : State), exec (.wrIrqRaise v 8) s = exec (.wrIrqRaise 0 8) s ∧
    exec (.wrIrqLower v 8) s = exec (.wrIrqLower 0 8) s ∧ exec (.wrDoorbell v 8) s = exec (.wrDoorbell 0 8) s) ∧
  ∀ src dst len : Word,
    (expandPseudo (.dmaToDev src dst len)).map decodeRequest =
      [.wrDmaSrc src 8, .wrDmaDst dst 8, .wrDmaLen len 8, .wrDmaCmd 1 8] ∧
    (expandPseudo (.dmaFromDev src dst len)).map decodeRequest =
      [.wrDmaSrc src 8, .wrDmaDst dst 8, .wrDmaLen len 8, .wrDmaCmd 2 8]

/-- R85 (D10): an access of `z` bytes presents the low `z` bytes of the value read, byte `j` being bits
`8j+7 : 8j`, and delivers the low `8z` bits of the value written, zero above; the two agree. -/
def Obligations.NarrowAccessesPresentLowBytes : Prop :=
  ∀ (z : Nat) (v : Word), sizeOk z = true →
    (presentRead z v).length = z ∧
    (∀ j, j < z → (presentRead z v)[j]? = some (v.extractLsb' (8 * j) 8)) ∧
    (deliverWrite z v).toNat = v.toNat % 2 ^ (8 * z) ∧
    wordOfBytes (presentRead z v) = deliverWrite z v

/-! ### The step -/

/-- R10, R45: the next turn offered is the one taken: a transaction of the Host is decoded and run on the State
without it. That turns stand in an inbox, and the packet, are the model's choice (log entries 3 and 4). The word
form is the host's: `step` runs exactly the instruction the decoder reads. -/
def Obligations.StepRunsTheDecodedTransaction : Prop :=
  (∀ (s : State) (r : Request) (rest : List Turn), s.inbox = .host r :: rest →
    step s = exec (decodeRequest r) (s.setInbox rest)) ∧
  (∀ (s : State) (rest : List Turn), s.inbox = .dmaAgent :: rest → step s = agentTurn (s.setInbox rest)) ∧
  (∀ (s : State) (rest : List Turn), s.inbox = .teardown :: rest → step s = teardown (s.setInbox rest)) ∧
  (∀ s : State, s.inbox = [] → step s = agentTurn s) ∧
  ∀ (s : State) (n w : Nat) (i : Instr), decodeTableWord n w = some i → step (s.withFetchWord n w) = exec i s

/-- R41, R46, R48, R49, R51, R53 to R57, the "after init" column of 10_state.md, for every choice of the
parameters; `State.reset` is the one with `Cfg.default`. That reset is the State after `init`, and the parameters it
takes, are the model's choice (log entries 1 and 2); the mask's formula is the spec's own (log entry 15). -/
def Obligations.ResetStateHoldsTheInitialValues : Prop :=
  State.reset = State.resetWith Cfg.default ∧
  ∀ (cfg : Cfg) (s : State), s = State.resetWith cfg →
    (∀ i : Fin 4, s.dev.reg[i] = 0) ∧
    s.dev.dma.src = 0 ∧ s.dev.dma.dst = 0 ∧ s.dev.dma.len = 0 ∧ s.dev.dma.cmd = 0 ∧
    s.dev.dma.mask = capabilityMask cfg.addrWidth ∧
    s.dev.status = .idle ∧ (∀ k, s.dev.buf.read k = 0) ∧
    isMessage s.dev.irq = cfg.msiNegotiated ∧ (∀ v, raisedFlag s.dev.irq v = false) ∧
    s.dev.released = false ∧ s.dev.fault = none ∧ s.dev.inflight = none

/-! ### General registers and the other reads -/

/-- R152 to R155: a register read returns the register whole at every size and changes nothing else, in every DMA
status; its key; the four bytes a 4-byte read presents; and zero after `init` and `reset`. -/
def Obligations.RegisterReadsReturnTheRegister : Prop :=
  (∀ (s : State) (z : Nat), Ready s → sizeOk z = true →
    exec (.rdReg0 z) s = .next (s.setReply (some (.data z s.dev.reg[0]))) ∧
    exec (.rdReg1 z) s = .next (s.setReply (some (.data z s.dev.reg[1]))) ∧
    exec (.rdReg2 z) s = .next (s.setReply (some (.data z s.dev.reg[2]))) ∧
    exec (.rdReg3 z) s = .next (s.setReply (some (.data z s.dev.reg[3])))) ∧
  (∀ (z : Nat) (v : Word),
    decodeRequest (.mmio false 0x00 z v) = .rdReg0 z ∧ decodeRequest (.mmio false 0x08 z v) = .rdReg1 z ∧
    decodeRequest (.mmio false 0x10 z v) = .rdReg2 z ∧ decodeRequest (.mmio false 0x18 z v) = .rdReg3 z) ∧
  (∀ v : Word, wordOfBytes (presentRead 4 v) = (v.setWidth 32).setWidth 64) ∧
  ∀ s t : State, exec .init s = .next t ∨ exec .reset s = .next t → ∀ i : Fin 4, t.dev.reg[i] = 0

/-- R156 to R159: a register write stores the whole value at every size, leaves the other registers and all other
state, in every DMA status; its key; and a 4-byte write clears the upper half, which is the spec's own inference from
its decision D10. -/
def Obligations.RegisterWritesStoreTheValue : Prop :=
  (∀ (s : State) (z : Nat) (v : Word), Ready s → sizeOk z = true →
    exec (.wrReg0 v z) s = .next ((s.setReg 0 v).setReply (some .ack)) ∧
    exec (.wrReg1 v z) s = .next ((s.setReg 1 v).setReply (some .ack)) ∧
    exec (.wrReg2 v z) s = .next ((s.setReg 2 v).setReply (some .ack)) ∧
    exec (.wrReg3 v z) s = .next ((s.setReg 3 v).setReply (some .ack))) ∧
  (∀ (s : State) (i j : Fin 4) (v : Word),
    (s.setReg i v).dev.reg[j] = if j = i then v else s.dev.reg[j]) ∧
  (∀ (z : Nat) (v : Word),
    decodeRequest (.mmio true 0x00 z v) = .wrReg0 (deliverWrite z v) z ∧
    decodeRequest (.mmio true 0x08 z v) = .wrReg1 (deliverWrite z v) z ∧
    decodeRequest (.mmio true 0x10 z v) = .wrReg2 (deliverWrite z v) z ∧
    decodeRequest (.mmio true 0x18 z v) = .wrReg3 (deliverWrite z v) z) ∧
  ∀ v : Word, (deliverWrite 4 v).toNat = v.toNat % 2 ^ 32

/-- R167 to R173: a read of a write-only offset returns the sentinel, changes no Device state and emits nothing;
its key. That such a read returns the sentinel is the spec's decision D3. -/
def Obligations.WriteOnlyReadsReturnTheSentinel : Prop :=
  (∀ (s : State) (z : Nat), Ready s → sizeOk z = true →
    ∀ i ∈ [Instr.rdWo20 z, .rdWo28 z, .rdWo30 z, .rdWo38 z, .rdWo40 z, .rdWo48 z, .rdWo50 z],
      exec i s = .next (s.setReply (some (.data z 0xFFFFFFFFFFFFFFFF)))) ∧
  ∀ (z : Nat) (v : Word),
    decodeRequest (.mmio false 0x20 z v) = .rdWo20 z ∧ decodeRequest (.mmio false 0x28 z v) = .rdWo28 z ∧
    decodeRequest (.mmio false 0x30 z v) = .rdWo30 z ∧ decodeRequest (.mmio false 0x38 z v) = .rdWo38 z ∧
    decodeRequest (.mmio false 0x40 z v) = .rdWo40 z ∧ decodeRequest (.mmio false 0x48 z v) = .rdWo48 z ∧
    decodeRequest (.mmio false 0x50 z v) = .rdWo50 z

/-- R174, R176: a read of an unmapped or invalid offset returns the sentinel and changes no Device state; it may
emit the log event (R300), and nothing else. -/
def Obligations.UnmappedAndInvalidReadsReturnTheSentinel : Prop :=
  (∀ (s : State) (o : Word) (z : Nat), Ready s → sizeOk z = true →
    ∀ i ∈ [Instr.rdUnmapped o z, .rdInvalid o z],
      exec i s = .next ((s.logPoint .invalidRegisterAccess).setReply (some (.data z 0xFFFFFFFFFFFFFFFF)))) ∧
  (∀ s : State, (s.logPoint .invalidRegisterAccess).dev = s.dev ∧
    ((s.logPoint .invalidRegisterAccess).trace = s.trace ∨
      (s.logPoint .invalidRegisterAccess).trace = s.trace ++ [.log .invalidRegisterAccess])) ∧
  ∀ (o : Word) (z : Nat) (v : Word),
    (o.toNat ≤ 0x50 → o.toNat % 8 ≠ 0 → decodeRequest (.mmio false o z v) = .rdUnmapped o z) ∧
    (0x50 < o.toNat → decodeRequest (.mmio false o z v) = .rdInvalid o z)

/-- R175, R177: a write of an unmapped or invalid offset is a no-op: no Device state changes; it may emit the log
event (R300), and nothing else. -/
def Obligations.UnmappedAndInvalidWritesDoNothing : Prop :=
  (∀ (s : State) (o v : Word) (z : Nat), Ready s → sizeOk z = true →
    ∀ i ∈ [Instr.wrUnmapped o v z, .wrInvalid o v z],
      exec i s = .next ((s.logPoint .invalidRegisterAccess).setReply (some .ack))) ∧
  (∀ s : State, (s.logPoint .invalidRegisterAccess).dev = s.dev ∧
    ((s.logPoint .invalidRegisterAccess).trace = s.trace ∨
      (s.logPoint .invalidRegisterAccess).trace = s.trace ++ [.log .invalidRegisterAccess])) ∧
  ∀ (o : Word) (z : Nat) (v : Word),
    (o.toNat ≤ 0x50 → o.toNat % 8 ≠ 0 →
      decodeRequest (.mmio true o z v) = .wrUnmapped o (deliverWrite z v) z) ∧
    (0x50 < o.toNat → decodeRequest (.mmio true o z v) = .wrInvalid o (deliverWrite z v) z)

/-- R93: a read changes no Device state at any offset and emits nothing but the optional log; the same read at any
later state of the same Device, that is with nothing that changes it between, returns the same value. The spec marks
the rule as its own inference. -/
def Obligations.ReadsHaveNoSideEffects : Prop :=
  ∀ (i : Instr) (s t : State), isRead i = true → exec i s = .next t →
    t.dev = s.dev ∧ t.cfg = s.cfg ∧ t.life = s.life ∧
    (t.trace = s.trace ∨ t.trace = s.trace ++ [.log .invalidRegisterAccess]) ∧
    ∀ u : State, u.dev = t.dev → u.life = t.life → ∃ w, exec i u = .next w ∧ w.reply = t.reply

/-- R58: what a register-window read returns depends on the general registers alone: two machines with the same
registers, whatever their DMA, buffer and interrupt state, return the same. -/
def Obligations.ReadsDependOnTheRegistersOnly : Prop :=
  ∀ (i : Instr) (s s' t : State), isRead i = true → SameWindow s s' → exec i s = .next t →
    ∃ t', exec i s' = .next t' ∧ t'.reply = t.reply ∧ SameWindow t t'

/-- R43, R98: general register `i` changes only by a write to it, by `reset` and by `init`, after both of which it is 0;
no DMA, interrupt or agent step writes it. -/
def Obligations.RegistersChangeOnlyByTheirWriteOrReset : Prop :=
  (∀ (i : Instr) (j : Fin 4) (s t : State), exec i s = .next t → writesReg j i = false → i ≠ .reset →
    i ≠ .init → t.dev.reg[j] = s.dev.reg[j]) ∧
  (∀ (j : Fin 4) (s t : State), exec .init s = .next t ∨ exec .reset s = .next t → t.dev.reg[j] = 0) ∧
  ∀ s t : State, agentTurn s = .next t ∨ teardown s = .next t → t.dev.reg = s.dev.reg

/-! ### Interrupts -/

/-- R160: WR_IRQ_RAISE raises vector 0 or asserts the pin, in every DMA status, and writes nothing else; it faults
in message mode after the release; its key. -/
def Obligations.DiagnosticRaiseDelivers : Prop :=
  (∀ (s : State) (v : Word) (z : Nat) (b : Bool), Ready s → sizeOk z = true → s.dev.irq = .pin b →
    exec (.wrIrqRaise v z) s =
      .next (((s.setIrq (.pin true)).emit (.assertLine true)).setReply (some .ack))) ∧
  (∀ (s : State) (v : Word) (z : Nat) (raised : Vector Bool 32), Ready s → sizeOk z = true →
    s.dev.irq = .message raised → s.dev.released = false →
    exec (.wrIrqRaise v z) s =
      .next (((s.setIrq (.message (raised.set 0 true))).emit (.notify 0)).setReply (some .ack))) ∧
  (∀ (s : State) (v : Word) (z : Nat) (raised : Vector Bool 32), Ready s → sizeOk z = true →
    s.dev.irq = .message raised → s.dev.released = true →
    exec (.wrIrqRaise v z) s = .fault .irqAfterRelease) ∧
  ∀ (z : Nat) (v : Word), decodeRequest (.mmio true 0x20 z v) = .wrIrqRaise (deliverWrite z v) z

/-- R161: WR_IRQ_LOWER deasserts the pin, always, or clears flag 0 without an event; it faults in message mode
after the release; its key; and no other register-window access lowers a flag. -/
def Obligations.DiagnosticLowerClears : Prop :=
  (∀ (s : State) (v : Word) (z : Nat) (b : Bool), Ready s → sizeOk z = true → s.dev.irq = .pin b →
    exec (.wrIrqLower v z) s =
      .next (((s.setIrq (.pin false)).emit (.assertLine false)).setReply (some .ack))) ∧
  (∀ (s : State) (v : Word) (z : Nat) (raised : Vector Bool 32), Ready s → sizeOk z = true →
    s.dev.irq = .message raised → s.dev.released = false →
    exec (.wrIrqLower v z) s = .next ((s.setIrq (.message (raised.set 0 false))).setReply (some .ack))) ∧
  (∀ (s : State) (v : Word) (z : Nat) (raised : Vector Bool 32), Ready s → sizeOk z = true →
    s.dev.irq = .message raised → s.dev.released = true →
    exec (.wrIrqLower v z) s = .fault .irqAfterRelease) ∧
  (∀ (z : Nat) (v : Word), decodeRequest (.mmio true 0x28 z v) = .wrIrqLower (deliverWrite z v) z) ∧
  ∀ (i : Instr) (s t : State) (v : Nat), exec i s = .next t → isHook i = false →
    (∀ x z, i ≠ .wrIrqLower x z) → raisedFlag s.dev.irq v = true → raisedFlag t.dev.irq v = true

/-- R261, R263: `raise` and `lower` in pin mode ignore the vector, write the flag and drive the line at every
call. -/
def Obligations.PinModeIgnoresTheVector : Prop :=
  ∀ (s : State) (b : Bool) (v : Nat), s.dev.irq = .pin b →
    raiseIrq v s = .next ((s.setIrq (.pin true)).emit (.assertLine true)) ∧
    lowerIrq v s = .next ((s.setIrq (.pin false)).emit (.assertLine false))

/-- R262, R264: `raise` and `lower` in message mode: the fault after the release, the out-of-range vectors that do
nothing but the optional log, the flag and the notify, and the idempotent lower without an event. -/
def Obligations.MessageModeRaisesAndLowersTheVector : Prop :=
  ∀ (s : State) (raised : Vector Bool 32) (v : Nat), s.dev.irq = .message raised →
    (s.dev.released = true → raiseIrq v s = .fault .irqAfterRelease ∧ lowerIrq v s = .fault .irqAfterRelease) ∧
    (s.dev.released = false → 32 ≤ v →
      raiseIrq v s = .next (s.logPoint .vectorOutOfRange) ∧ lowerIrq v s = .next (s.logPoint .vectorOutOfRange) ∧
      (s.logPoint .vectorOutOfRange).dev = s.dev ∧
      ((s.logPoint .vectorOutOfRange).trace = s.trace ∨
        (s.logPoint .vectorOutOfRange).trace = s.trace ++ [.log .vectorOutOfRange])) ∧
    (s.dev.released = false → ∀ h : v < 32,
      raiseIrq v s = .next ((s.setIrq (.message (raised.set v true))).emit (.notify v)) ∧
      (raised[v] = false → lowerIrq v s = .next s) ∧
      (raised[v] = true → lowerIrq v s = .next (s.setIrq (.message (raised.set v false)))))

/-- R276: after the release a message-mode raise or lower faults and pin mode keeps working; and, in a state of the
invariant, a write to `0x20` or `0x28` after `finalize` in message mode is the only way to that fault. The fault is the spec's
decision D19. -/
def Obligations.ReleasedVectorsFault : Prop :=
  (∀ (s : State) (v z : Nat) (x : Word), isMessage s.dev.irq = true → s.dev.released = true →
    raiseIrq v s = .fault .irqAfterRelease ∧ lowerIrq v s = .fault .irqAfterRelease ∧
    (Ready s → sizeOk z = true → exec (.wrIrqRaise x z) s = .fault .irqAfterRelease ∧
      exec (.wrIrqLower x z) s = .fault .irqAfterRelease)) ∧
  (∀ (s : State) (v : Nat), isMessage s.dev.irq = false →
    ∃ t u, raiseIrq v s = .next t ∧ lowerIrq v s = .next u) ∧
  ∀ (s : State), Inv s →
    (∀ i : Instr, s.life ≠ .absent → exec i s = .fault .irqAfterRelease →
      isMessage s.dev.irq = true ∧ s.dev.status = .off ∧
        ∃ x z, i = .wrIrqRaise x z ∨ i = .wrIrqLower x z) ∧
    agentTurn s ≠ .fault .irqAfterRelease

/-! ### The DMA Engine -/

/-- R200 to R204: a configuration write stores its field, whole and unchecked, when status is Idle, and writes
nothing else; otherwise it changes no Device state, with an optional log. -/
def Obligations.ConfigurationWritesPassTheGate : Prop :=
  (∀ (s : State) (v : Word) (z : Nat), Ready s → sizeOk z = true → s.dev.status = .idle →
    exec (.wrDmaSrc v z) s = .next ((s.setDma { s.dev.dma with src := v }).setReply (some .ack)) ∧
    exec (.wrDmaDst v z) s = .next ((s.setDma { s.dev.dma with dst := v }).setReply (some .ack)) ∧
    exec (.wrDmaLen v z) s = .next ((s.setDma { s.dev.dma with len := v }).setReply (some .ack)) ∧
    exec (.wrDmaCmd v z) s = .next ((s.setDma { s.dev.dma with cmd := v }).setReply (some .ack))) ∧
  (∀ (s : State) (v : Word) (z : Nat), Ready s → sizeOk z = true → s.dev.status ≠ .idle →
    ∀ i ∈ [Instr.wrDmaSrc v z, .wrDmaDst v z, .wrDmaLen v z, .wrDmaCmd v z],
      exec i s = .next ((s.logPoint .configWhileBusy).setReply (some .ack))) ∧
  (∀ s : State, (s.logPoint .configWhileBusy).dev = s.dev ∧
    ((s.logPoint .configWhileBusy).trace = s.trace ∨
      (s.logPoint .configWhileBusy).trace = s.trace ++ [.log .configWhileBusy])) ∧
  ∀ (z : Nat) (v : Word),
    decodeRequest (.mmio true 0x30 z v) = .wrDmaSrc (deliverWrite z v) z ∧
    decodeRequest (.mmio true 0x38 z v) = .wrDmaDst (deliverWrite z v) z ∧
    decodeRequest (.mmio true 0x40 z v) = .wrDmaLen (deliverWrite z v) z ∧
    decodeRequest (.mmio true 0x48 z v) = .wrDmaCmd (deliverWrite z v) z

/-- R205, R47, derived: the configuration changes only by its own accepted writes, by `reset` and `finalize` and by
`init`; no doorbell and no phase of a transfer writes it, and no write does while status is not Idle. -/
def Obligations.ConfigurationPersists : Prop :=
  (∀ (i : Instr) (s t : State), exec i s = .next t → isHook i = false →
    (isConfigWrite i = false ∨ s.dev.status ≠ .idle) → t.dev.dma = s.dev.dma) ∧
  ∀ s t : State, agentTurn s = .next t ∨ teardown s = .next t → t.dev.dma = s.dev.dma

/-- R211: the window test, its upper bound inclusive (the spec's choice C8, D5). -/
def Obligations.WindowTestIsInclusive : Prop :=
  ∀ a : Word, inWindow a = true ↔ 0x10000 ≤ a.toNat ∧ a.toNat ≤ 0x11000

/-- R9, R216: bit `i` of the capability mask of a width in 1 to 64 is set exactly below the width, so the masked
address is the address modulo `2^w`. The mask's formula is the spec's own, from general knowledge (log entry 15). -/
def Obligations.CapabilityMaskKeepsLowBits : Prop :=
  ∀ (w : Nat) (a : Word), 1 ≤ w → w ≤ 64 →
    (∀ i, i < 64 → (capabilityMask w).getLsbD i = decide (i < w)) ∧
    (maskedAddr a (capabilityMask w)).toNat = a.toNat % 2 ^ w

/-- R210, R376: a doorbell whose compare-and-swap fails, status being Executing or Off, is dropped: no state change,
no event, in both regimes. -/
def Obligations.BusyDoorbellIsDropped : Prop :=
  ∀ (s : State) (v : Word) (z : Nat), Ready s → sizeOk z = true → s.dev.status ≠ .idle →
    exec (.wrDoorbell v z) s = .next (s.setReply (some .ack))

/-- R219: a doorbell with another command, or with a device-side address outside the window, makes no bus-transfer
call and raises no interrupt: no Device state changes, status is Idle, at most the log event is emitted; the same of
the agent's turns of a doorbell in flight, after which status is Idle. Those turns are the phases of R330, the spec's
decision D11, and that there are two of them is log entry 12. -/
def Obligations.NoInterruptWithoutATransfer : Prop :=
  (∀ (s : State) (v : Word) (z : Nat), Ready s → sizeOk z = true → s.dev.status = .idle →
    s.cfg.serialized = true → s.dev.dma.cmd ≠ 1 → s.dev.dma.cmd ≠ 2 →
    exec (.wrDoorbell v z) s = .next (s.setReply (some .ack))) ∧
  (∀ (s : State) (v : Word) (z : Nat), Ready s → sizeOk z = true → s.dev.status = .idle →
    s.cfg.serialized = true →
    (s.dev.dma.cmd = 1 ∧ ¬ (0x10000 ≤ s.dev.dma.dst.toNat ∧ s.dev.dma.dst.toNat ≤ 0x11000)) ∨
      (s.dev.dma.cmd = 2 ∧ ¬ (0x10000 ≤ s.dev.dma.src.toNat ∧ s.dev.dma.src.toNat ≤ 0x11000)) →
    exec (.wrDoorbell v z) s = .next ((s.logPoint .transferOutOfBounds).setReply (some .ack))) ∧
  (∀ s : State, (s.logPoint .transferOutOfBounds).dev = s.dev ∧
    ((s.logPoint .transferOutOfBounds).trace = s.trace ∨
      (s.logPoint .transferOutOfBounds).trace = s.trace ++ [.log .transferOutOfBounds])) ∧
  ∀ s : State, Ready s → s.cfg.serialized = false → s.dev.inflight = some .started →
    (s.dev.dma.cmd ≠ 1 ∧ s.dev.dma.cmd ≠ 2) ∨
      (s.dev.dma.cmd = 1 ∧ ¬ (0x10000 ≤ s.dev.dma.dst.toNat ∧ s.dev.dma.dst.toNat ≤ 0x11000)) ∨
      (s.dev.dma.cmd = 2 ∧ ¬ (0x10000 ≤ s.dev.dma.src.toNat ∧ s.dev.dma.src.toNat ≤ 0x11000)) →
    ∃ t, agentTurns 2 s = .next t ∧ t.dev = { s.dev with status := .idle, inflight := none } ∧
      (t.trace = s.trace ∨ t.trace = s.trace ++ [.log .transferOutOfBounds])

/-- R213, R216 to R218: a transfer to the device, in one step: the optional mask log, the bus read of `len` bytes at
the masked source, the answer's bytes (drawn ones where it failed) in `buf[off .. off+len)`, every other byte as
before, the optional failure log, the completion raise, status Idle, and nothing else. The call returns, as the
Environment owes (R27). The answer and the drawn bytes
are free values (log entries 5 to 7): the statement holds for every value of them. -/
def Obligations.ToDeviceTransfer : Prop :=
  ∀ (s : State) (v : Word) (z : Nat), Ready s → sizeOk z = true → s.dev.status = .idle →
    s.cfg.serialized = true → IrqLive s → s.busReturns = true → s.dev.dma.cmd = 1 → 0x10000 ≤ s.dev.dma.dst.toNat →
    s.dev.dma.dst.toNat - 0x10000 + s.dev.dma.len.toNat ≤ 0x1000 → s.dev.buf.wf = true →
    let off := s.dev.dma.dst.toNat - 0x10000
    let addr := s.dev.dma.src &&& s.dev.dma.mask
    let u := s.logWhen (addr != s.dev.dma.src) .addressMasked
    ∃ t, exec (.wrDoorbell v z) s = .next t ∧
      t.dev = { s.dev with buf := t.dev.buf, irq := irqRaised s.dev.irq } ∧
      (∀ j, j < s.dev.dma.len.toNat → t.dev.buf.read (off + j) =
        if u.busAnswer.ok then u.busAnswer.data[j]?.getD (Config.drawnByte u.draws j)
        else Config.drawnByte u.draws j) ∧
      (∀ k, k < off ∨ off + s.dev.dma.len.toNat ≤ k → t.dev.buf.read k = s.dev.buf.read k) ∧
      t.trace = u.trace ++ [.busRead addr s.dev.dma.len] ++
        (if u.busAnswer.ok then [] else logEvents (u.draws + 1) .busTransferFailure) ++
        [raiseEvent s.dev.irq] ∧
      t.reply = some .ack ∧ t.env = s.env.tail ∧ t.cfg = s.cfg ∧ t.life = s.life ∧ t.inbox = s.inbox

/-- R214, R216 to R218: a transfer from the device, in one step: the optional mask log, the bus write of the `len`
buffer bytes from `src` at the masked destination, the optional failure log, the completion raise, status Idle; the
buffer and all else unchanged. The call returns, as the Environment owes (R27). -/
def Obligations.FromDeviceTransfer : Prop :=
  ∀ (s : State) (v : Word) (z : Nat), Ready s → sizeOk z = true → s.dev.status = .idle →
    s.cfg.serialized = true → IrqLive s → s.busReturns = true → s.dev.dma.cmd = 2 → 0x10000 ≤ s.dev.dma.src.toNat →
    s.dev.dma.src.toNat - 0x10000 + s.dev.dma.len.toNat ≤ 0x1000 →
    let off := s.dev.dma.src.toNat - 0x10000
    let addr := s.dev.dma.dst &&& s.dev.dma.mask
    let u := s.logWhen (addr != s.dev.dma.dst) .addressMasked
    ∃ t, exec (.wrDoorbell v z) s = .next t ∧
      t.dev = { s.dev with irq := irqRaised s.dev.irq } ∧
      t.trace = u.trace ++
        [.busWrite addr ((List.range s.dev.dma.len.toNat).map fun j => s.dev.buf.read (off + j))] ++
        (if u.busAnswer.ok then [] else logEvents (u.draws + 1) .busTransferFailure) ++
        [raiseEvent s.dev.irq] ∧
      t.reply = some .ack ∧ t.env = s.env.tail ∧ t.cfg = s.cfg ∧ t.life = s.life ∧ t.inbox = s.inbox

/-- R215: a transfer in the window that passes the end of the buffer faults `BufferOverrun`, in both regimes, summed
without wrap (R220); the faulted state differs in `fault` alone, and no step follows it. The fault is the spec's
decision D6; what a State keeps after a fault is log entry 8, and that its status is the one before the doorbell is the
model's choice (log entry 24). -/
def Obligations.OverrunFaultsBeforeTheBusCall : Prop :=
  (∀ (s : State) (v : Word) (z : Nat) (a : Word), Ready s →
    (s.dev.dma.cmd = 1 ∧ a = s.dev.dma.dst) ∨ (s.dev.dma.cmd = 2 ∧ a = s.dev.dma.src) →
    0x10000 ≤ a.toNat → a.toNat ≤ 0x11000 → 0x1000 < a.toNat - 0x10000 + s.dev.dma.len.toNat →
    (sizeOk z = true → s.dev.status = .idle → s.cfg.serialized = true →
      exec (.wrDoorbell v z) s = .fault .bufferOverrun) ∧
    (s.cfg.serialized = false → s.dev.inflight = some .started → agentTurn s = .fault .bufferOverrun)) ∧
  ∀ (s : State) (r : Fault), s.life = .present → step s = .fault r →
    settled s = s.setFault (some r) ∧ step (settled s) = .fault r

/-- R221: a transfer of length 0 at an in-window device address, `0x11000` included, makes one bus-transfer call of
length 0, writes no buffer byte and raises the completion interrupt, where the call returns (R27). -/
def Obligations.ZeroLengthTransferStillCompletes : Prop :=
  ∀ (s : State) (v : Word) (z : Nat) (a : Word), Ready s → sizeOk z = true → s.dev.status = .idle →
    s.cfg.serialized = true → IrqLive s → s.busReturns = true → s.dev.dma.len = 0 →
    (s.dev.dma.cmd = 1 ∧ a = s.dev.dma.dst) ∨ (s.dev.dma.cmd = 2 ∧ a = s.dev.dma.src) →
    0x10000 ≤ a.toNat → a.toNat ≤ 0x11000 →
    ∃ t ev, exec (.wrDoorbell v z) s = .next t ∧ t.dev.buf = s.dev.buf ∧ t.dev.status = .idle ∧
      t.trace = s.trace ++ ev ∧
      ev.filter isBusCall =
        [if s.dev.dma.cmd = 1 then .busRead (s.dev.dma.src &&& s.dev.dma.mask) 0
         else .busWrite (s.dev.dma.dst &&& s.dev.dma.mask) []] ∧
      ev.filter deliversInterrupt = [raiseEvent s.dev.irq]

/-- R210, derived: the frame of a doorbell, whatever it does: registers, configuration, `released`, `fault` and the
parameters stay; when accesses are serialized status ends as it was before the doorbell; and a buffer byte changes
only inside the range of a transfer to the device. -/
def Obligations.DoorbellFrame : Prop :=
  ∀ (s t : State) (v : Word) (z : Nat), exec (.wrDoorbell v z) s = .next t →
    t.dev.reg = s.dev.reg ∧ t.dev.dma = s.dev.dma ∧ t.dev.released = s.dev.released ∧
    t.dev.fault = s.dev.fault ∧ t.cfg = s.cfg ∧ t.life = s.life ∧ t.inbox = s.inbox ∧
    (s.cfg.serialized = true → t.dev.status = s.dev.status ∧ t.dev.inflight = s.dev.inflight) ∧
    (s.dev.dma.cmd ≠ 1 → t.dev.buf = s.dev.buf) ∧
    ∀ k, k < bufOffset s.dev.dma.dst ∨ bufOffset s.dev.dma.dst + s.dev.dma.len.toNat ≤ k →
      t.dev.buf.read k = s.dev.buf.read k

/-- R51, derived: no transaction but the doorbell and the hooks touches the buffer, and none but the interrupt writes
and those touches the interrupt state. -/
def Obligations.OtherAccessesLeaveBufferAndInterrupts : Prop :=
  ∀ (i : Instr) (s t : State), exec i s = .next t → isHook i = false → (∀ v z, i ≠ .wrDoorbell v z) →
    (∀ k, t.dev.buf.read k = s.dev.buf.read k) ∧ t.dev.status = s.dev.status ∧
    t.dev.inflight = s.dev.inflight ∧ t.dev.released = s.dev.released ∧ t.env = s.env ∧ t.inbox = s.inbox ∧
    ((∀ v z, i ≠ .wrIrqRaise v z ∧ i ≠ .wrIrqLower v z) → t.dev.irq = s.dev.irq)

/-! ### The doorbell in phases -/

/-- R330: the four phases when accesses are not serialized: accept, issue, land, finish, each one step. An issue
without a call goes to finish (log entry 12); the land phase is that of a call that returns (R27). -/
def Obligations.DoorbellPhases : Prop :=
  (∀ (s : State) (v : Word) (z : Nat), Ready s → sizeOk z = true → s.cfg.serialized = false →
    s.dev.status = .idle →
    exec (.wrDoorbell v z) s =
      .next (((s.setStatus .executing).setInflight (some .started)).setReply none)) ∧
  (∀ (s : State) (a : Word), Ready s → s.cfg.serialized = false → s.dev.inflight = some .started →
    (s.dev.dma.cmd = 1 ∧ a = s.dev.dma.dst) ∨ (s.dev.dma.cmd = 2 ∧ a = s.dev.dma.src) →
    TransferFits a s.dev.dma.len →
    ∃ t ev, agentTurn s = .next t ∧ t.dev = { s.dev with inflight := some .awaitBus } ∧
      (ev = [] ∨ ev = [.log .addressMasked]) ∧
      t.trace = s.trace ++ ev ++
        [if s.dev.dma.cmd = 1 then .busRead (s.dev.dma.src &&& s.dev.dma.mask) s.dev.dma.len
         else .busWrite (s.dev.dma.dst &&& s.dev.dma.mask)
           (s.dev.buf.readBytes (bufOffset a) s.dev.dma.len.toNat)]) ∧
  (∀ s : State, Ready s → s.cfg.serialized = false → s.dev.inflight = some .started →
    (s.dev.dma.cmd ≠ 1 ∧ s.dev.dma.cmd ≠ 2) ∨ (s.dev.dma.cmd = 1 ∧ inWindow s.dev.dma.dst = false) ∨
      (s.dev.dma.cmd = 2 ∧ inWindow s.dev.dma.src = false) →
    ∃ t, agentTurn s = .next t ∧ t.dev = { s.dev with inflight := some .raised } ∧
      (t.trace = s.trace ∨ t.trace = s.trace ++ [.log .transferOutOfBounds])) ∧
  (∀ s : State, Ready s → s.cfg.serialized = false → s.dev.inflight = some .awaitBus → IrqLive s →
    s.busReturns = true → AwaitedFits s.dev →
    ∃ t, agentTurn s = .next t ∧ t.env = s.env.tail ∧
      t.dev = { s.dev with
        inflight := some .raised
        irq := irqRaised s.dev.irq
        buf := if s.dev.dma.cmd = 1 then
            s.dev.buf.writeBytes (bufOffset s.dev.dma.dst)
              (landedBytes s.busAnswer s.draws s.dev.dma.len.toNat)
          else s.dev.buf } ∧
      t.trace = s.trace ++ (if s.busAnswer.ok then [] else logEvents (s.draws + 1) .busTransferFailure) ++
        [raiseEvent s.dev.irq]) ∧
  ∀ s : State, Ready s → s.cfg.serialized = false → s.dev.inflight = some .raised →
    agentTurn s = .next (((s.setStatus .idle).setInflight none).setReply (some .ack))

/-- R330, R10: "With `SERIALIZED = true` the four phases are one step": from a state with nothing in flight, the
accepted doorbell carried by three turns of the agent (log entries 3 and 12), with nothing between them, ends exactly
as the doorbell that is one step, in state, events, answers taken and fault. -/
def Obligations.SerializedDoorbellIsItsPhases : Prop :=
  ∀ (s : State) (v : Word) (z : Nat), s.dev.inflight = none →
    andThen (exec (.wrDoorbell v z) (withSerialized false s)) (agentTurns 3) =
      andThen (exec (.wrDoorbell v z) (withSerialized true s)) fun t => .next (withSerialized false t)

/-- R330 with R210, "the transfer runs to completion unconditionally": where the Environment answers (R27), three
turns of the agent finish every doorbell in phase AwaitBus or Raised and every one in phase Started but one: a transfer
in the window that passes the end of the buffer, which faults (R215, the spec's decision D6). The phases are the spec's
decision D11; that three turns are enough from each phase rests on log entries 3 and 12. -/
def Obligations.AcceptedDoorbellCompletes : Prop :=
  ∀ s : State, Inv s → s.life = .present → s.dev.status = .executing → s.busReturns = true →
    ((∃ t, agentTurns 3 s = .next t ∧ t.dev.status = .idle ∧ t.dev.inflight = none ∧ t.reply = some .ack) ↔
      ¬ (s.dev.inflight = some .started ∧ ∃ a, deviceSide s.dev.dma = some a ∧ inWindow a = true ∧
        0x1000 < bufOffset a + s.dev.dma.len.toNat)) ∧
    (agentTurns 3 s = .fault .bufferOverrun ↔
      s.dev.inflight = some .started ∧ ∃ a, deviceSide s.dev.dma = some a ∧ inWindow a = true ∧
        0x1000 < bufOffset a + s.dev.dma.len.toNat)

/-! ### Lifecycle -/

/-- R350, R364 with R232 and R260: `init` creates the Device at its initial values, for every choice of the
parameters, emitting `QueryMsi` and nothing else; a second one faults. The mask's formula is the spec's own (log entry
15); the second `init` is the spec's decision D18, and its order against a doorbell in flight log entry 10. -/
def Obligations.InitCreatesTheDevice : Prop :=
  (∀ s : State, s.life = .absent →
    ∃ t, exec .init s = .next t ∧ t.life = .present ∧ t.dev = Device.initial s.cfg ∧
      t.trace = s.trace ++ [.queryMsi] ∧ t.reply = some .ack ∧ t.cfg = s.cfg ∧ t.inbox = s.inbox ∧
      t.env = s.env ∧ t.draws = s.draws) ∧
  (∀ cfg : Cfg, Device.initial cfg =
    { reg := Vector.replicate 4 0
      dma := { src := 0, dst := 0, len := 0, cmd := 0, mask := capabilityMask cfg.addrWidth }
      status := .idle
      buf := []
      irq := if cfg.msiNegotiated then .message (Vector.replicate 32 false) else .pin false
      released := false
      fault := none
      inflight := none }) ∧
  ∀ s : State, Ready s → s.dev.inflight = none → exec .init s = .fault .initTwice

/-- R360, R361, R230, R270: `reset` zeroes the registers, the four configuration fields and the buffer, sets status
Idle, lowers vector 0, and keeps the mask, the mode, the other vectors, `released` and `fault`; in pin mode it emits
`AssertLine(0)`, in message mode nothing. -/
def Obligations.ResetHookClears : Prop :=
  ∀ s : State, Ready s → s.dev.status ≠ .off → s.dev.inflight = none → IrqLive s →
    ∃ t, exec .reset s = .next t ∧
      t.dev = { s.dev with
        reg := Vector.replicate 4 0
        dma := { s.dev.dma with src := 0, dst := 0, len := 0, cmd := 0 }
        status := .idle
        buf := []
        irq := irqLowered s.dev.irq } ∧
      (∀ k, t.dev.buf.read k = 0) ∧
      (∀ v, raisedFlag t.dev.irq v = if isMessage s.dev.irq = true ∧ v ≠ 0 then raisedFlag s.dev.irq v else false) ∧
      t.trace = s.trace ++ (if isMessage s.dev.irq then [] else [.assertLine false]) ∧
      t.reply = some .ack ∧ t.cfg = s.cfg ∧ t.life = s.life ∧ t.inbox = s.inbox ∧ t.env = s.env ∧
      t.draws = s.draws

/-- R362, R231, R275: `finalize` zeroes the configuration and the buffer, sets status Off, lowers vector 0 and, in
message mode, releases the vectors; the registers and the mask stay. -/
def Obligations.FinalizeHookTurnsOff : Prop :=
  ∀ s : State, Ready s → s.dev.status ≠ .off → s.dev.inflight = none → IrqLive s →
    ∃ t, exec .finalize s = .next t ∧
      t.dev = { s.dev with
        dma := { s.dev.dma with src := 0, dst := 0, len := 0, cmd := 0 }
        status := .off
        buf := []
        irq := irqLowered s.dev.irq
        released := s.dev.released || isMessage s.dev.irq } ∧
      t.trace = s.trace ++ (if isMessage s.dev.irq then [.releaseVectors] else [.assertLine false]) ∧
      t.reply = some .ack ∧ t.cfg = s.cfg ∧ t.life = s.life ∧ t.inbox = s.inbox ∧ t.env = s.env ∧
      t.draws = s.draws

/-- R363: `reset` and `finalize` while status is Off fault (the spec's decision D18). -/
def Obligations.HooksAfterFinalizeFault : Prop :=
  ∀ s : State, Ready s → s.dev.status = .off →
    exec .reset s = .fault .lifecycleAfterFinalize ∧ exec .finalize s = .fault .lifecycleAfterFinalize

/-- R331: a hook while a doorbell is in flight faults; with accesses serialized the case cannot arise. The fault is
the spec's decision D11; for `init` the order against R364 is the model's choice (log entry 10). -/
def Obligations.HooksDuringATransferFault : Prop :=
  (∀ (s : State) (i : Instr), Ready s → Inv s → s.dev.inflight ≠ none → isHook i = true →
    exec i s = .fault .lifecycleDuringTransfer) ∧
  ∀ s : State, Inv s → s.life ≠ .absent → s.cfg.serialized = true → s.dev.inflight = none

/-- R366: after `finalize`: reads and register writes complete as ever, configuration writes and doorbells are
dropped, the diagnostic writes work in pin mode and fault in message mode, the hooks fault (the spec's decision D19). -/
def Obligations.AfterFinalize : Prop :=
  ∀ (s : State) (v : Word) (z : Nat), Inv s → Ready s → s.dev.status = .off → sizeOk z = true →
    (∀ i : Instr, isRead i = true → accessSizeOf i = some z → ∃ t, exec i s = .next t ∧ t.dev = s.dev) ∧
    exec (.wrReg0 v z) s = .next ((s.setReg 0 v).setReply (some .ack)) ∧
    exec (.wrReg1 v z) s = .next ((s.setReg 1 v).setReply (some .ack)) ∧
    exec (.wrReg2 v z) s = .next ((s.setReg 2 v).setReply (some .ack)) ∧
    exec (.wrReg3 v z) s = .next ((s.setReg 3 v).setReply (some .ack)) ∧
    (∀ i ∈ [Instr.wrDmaSrc v z, .wrDmaDst v z, .wrDmaLen v z, .wrDmaCmd v z, .wrDoorbell v z],
      ∃ t, exec i s = .next t ∧ t.dev = s.dev ∧ t.trace.filter (fun e => !isLog e) = s.trace.filter (fun e => !isLog e)) ∧
    (isMessage s.dev.irq = false → ∀ i ∈ [Instr.wrIrqRaise v z, .wrIrqLower v z], ∃ t, exec i s = .next t) ∧
    (isMessage s.dev.irq = true →
      ∀ i ∈ [Instr.wrIrqRaise v z, .wrIrqLower v z], exec i s = .fault .irqAfterRelease) ∧
    exec .reset s = .fault .lifecycleAfterFinalize ∧ exec .finalize s = .fault .lifecycleAfterFinalize

/-- R311, R365, R13: no step before `init`, after teardown, or at a size outside 4 to 8. That there is no step is the
spec's decision D9; that it is a refusal of the model is log entry 9. The last clause, that a teardown changes nothing
but the life of the Device and emits nothing, is log entry 19. -/
def Obligations.BrokenHostDutiesHaveNoStep : Prop :=
  (∀ (s : State) (i : Instr), s.life = .absent → i ≠ .init → exec i s = .refused .beforeInit) ∧
  (∀ (s : State) (i : Instr), s.life = .tornDown → exec i s = .refused .afterTeardown) ∧
  (∀ (s : State) (i : Instr) (z : Nat), Ready s → accessSizeOf i = some z → sizeOk z = false →
    exec i s = .refused (.accessSize z)) ∧
  ∀ s : State, Ready s → teardown s = .next (s.setLife .tornDown)

/-- R56, R310: a fault is sticky: a faulted Device has no further step, whatever is offered (the spec's decision D34; log
entry 8). -/
def Obligations.FaultsAreSticky : Prop :=
  ∀ (s : State) (r : Fault), s.life = .present → s.dev.fault = some r → step s = .fault r

/-- R310: in a state of the invariant each fault arises only where its rule says, of a transaction and of a turn of the
DMA agent, whose one fault is the overrun in the issue phase (R215, R330); a teardown and a machine with nothing to do
raise none. The faults are the spec's decision D34; the order of two of them at `init` is log entry 10. -/
def Obligations.FaultsOnlyWhereTheirRulesSay : Prop :=
  (∀ (s : State) (i : Instr) (r : Fault), Inv s → s.life ≠ .absent → exec i s = .fault r →
    match r with
    | .bufferOverrun => (∃ v z, i = .wrDoorbell v z) ∧ s.cfg.serialized = true ∧ s.dev.status = .idle ∧
        ∃ a, deviceSide s.dev.dma = some a ∧ inWindow a = true ∧
          0x1000 < bufOffset a + s.dev.dma.len.toNat
    | .irqAfterRelease => (∃ v z, i = .wrIrqRaise v z ∨ i = .wrIrqLower v z) ∧ s.dev.released = true ∧
        isMessage s.dev.irq = true
    | .lifecycleAfterFinalize => (i = .reset ∨ i = .finalize) ∧ s.dev.status = .off
    | .initTwice => i = .init ∧ s.dev.inflight = none
    | .lifecycleDuringTransfer => isHook i = true ∧ s.dev.inflight ≠ none) ∧
  ∀ (s : State) (r : Fault), Inv s → teardown s ≠ .fault r ∧
    (agentTurn s = .fault r → r = .bufferOverrun ∧ s.cfg.serialized = false ∧ s.dev.inflight = some .started ∧
      ∃ a, deviceSide s.dev.dma = some a ∧ inWindow a = true ∧ 0x1000 < bufOffset a + s.dev.dma.len.toNat)

/-! ### Whole-machine rules -/

/-- The invariant of the machine holds at reset and before `init`, for every choice of the parameters. -/
def Obligations.InvariantHoldsAtReset : Prop :=
  Inv State.reset ∧ ∀ cfg : Cfg, Inv (State.resetWith cfg) ∧ Inv (State.powerOn cfg)

/-- R48, R53, R55, R57, R266, R267 and the rules named in `DeviceInv`: every step keeps the invariant. Its mask is the
spec's formula from general knowledge (log entry 15). -/
def Obligations.EveryStepKeepsTheInvariant : Prop :=
  ∀ s t : State, Inv s → step s = .next t → Inv t

/-- R51: every step keeps the buffer inside its 4096 bytes and in canonical form, from any state with such a
buffer. -/
def Obligations.EveryStepKeepsTheBufferForm : Prop :=
  ∀ s t : State, s.dev.buf.wf = true → step s = .next t → t.dev.buf.wf = true

/-- R8, R48, R53: no step changes a parameter; once the Device exists no step changes the mask or the interrupt
mode. -/
def Obligations.ParametersMaskAndModeNeverChange : Prop :=
  ∀ s t : State, step s = .next t →
    t.cfg = s.cfg ∧
    (s.life ≠ .absent → t.dev.dma.mask = s.dev.dma.mask ∧ isMessage t.dev.irq = isMessage s.dev.irq)

/-- R50: the transitions of DMA status between steps, and what makes each; Off is terminal. When accesses are
serialized a doorbell's Idle, Executing, Idle is one step and leaves status as it was. -/
def Obligations.StatusTransitions : Prop :=
  (∀ (s t : State) (i : Instr), Inv s → s.life ≠ .absent → exec i s = .next t →
    t.dev.status ≠ s.dev.status →
    (s.dev.status = .idle ∧ t.dev.status = .executing ∧ (∃ v z, i = .wrDoorbell v z) ∧
        s.cfg.serialized = false) ∨
      (i = .finalize ∧ s.dev.status = .idle ∧ t.dev.status = .off)) ∧
  (∀ s t : State, Inv s → agentTurn s = .next t → t.dev.status ≠ s.dev.status →
    s.dev.status = .executing ∧ t.dev.status = .idle) ∧
  ∀ s t : State, Inv s → s.life ≠ .absent → s.dev.status = .off → step s = .next t → t.dev.status = .off

/-- R28, R95, R99, R318: a step only appends to the trace; it makes at most one bus-transfer call and delivers at most
one interrupt, and no bus-transfer call follows an interrupt within it. -/
def Obligations.EventsOfOneStep : Prop :=
  ∀ s t : State, step s = .next t →
    ∃ ev, t.trace = s.trace ++ ev ∧ (ev.filter isBusCall).length ≤ 1 ∧
      (ev.filter deliversInterrupt).length ≤ 1 ∧
      ev.Pairwise fun a b => deliversInterrupt a = true → isBusCall b = false

/-- R267, R317: in pin mode, in a state of the invariant, the line level the Environment last saw is the pin flag, after
a step as before it. -/
def Obligations.LineLevelIsThePinFlag : Prop :=
  ∀ (s t : State) (b l : Bool), Inv s → s.life ≠ .absent → step s = .next t → t.dev.irq = .pin b →
    lineLevel t.trace = some l → l = b

/-- R26, R305: a log point emits its event or nothing and changes nothing else but the count of draws (log entry 6);
the codes are the spec's decision D14. -/
def Obligations.LogPointsAreOptional : Prop :=
  (∀ (s : State) (k : LogKind),
    ((s.logPoint k).trace = s.trace ∨ (s.logPoint k).trace = s.trace ++ [.log k]) ∧
    (s.logPoint k).dev = s.dev ∧ (s.logPoint k).cfg = s.cfg ∧ (s.logPoint k).life = s.life ∧
    (s.logPoint k).reply = s.reply ∧ (s.logPoint k).inbox = s.inbox ∧ (s.logPoint k).env = s.env) ∧
  [LogKind.invalidRegisterAccess, .configWhileBusy, .transferOutOfBounds, .vectorOutOfRange, .busTransferFailure,
    .addressMasked].map logCode = [1, 2, 3, 4, 5, 6]

/-! ### Ordering and the Environment's duty -/

/-- R98 to R100, derived: transactions take effect one at a time in the order they are offered, and there is no fence.
A transaction depends on none of the turns after it and changes none of them; when accesses are serialized no effect of
one is left for later, since nothing is in flight between transactions and no other agent moves; and a doorbell, the
one ordering point, has ended its transfer when its write returns. The order of turns is that of the inbox (log
entry 3). -/
def Obligations.TransactionsTakeEffectInOrder : Prop :=
  (∀ (i : Instr) (s : State) (turns : List Turn),
    exec i (s.setInbox turns) = andThen (exec i s) fun t => .next (t.setInbox turns)) ∧
  (∀ (i j : Request) (s t : State) (rest : List Turn), s.inbox = .host i :: .host j :: rest → step s = .next t →
    t.inbox = .host j :: rest ∧ step t = exec (decodeRequest j) (t.setInbox rest)) ∧
  (∀ s : State, Inv s → s.life = .present → s.cfg.serialized = true → agentTurn s = .next s) ∧
  ∀ (s t : State) (v : Word) (z : Nat), Inv s → s.cfg.serialized = true → exec (.wrDoorbell v z) s = .next t →
    t.dev.inflight = none ∧ t.dev.status ≠ .executing ∧ t.reply = some .ack ∧ agentTurn t = .next t

/-- R98, derived: "A read of `reg[i]` returns the value of the last write to `reg[i]` (or 0 after `init` or `reset`)",
whatever transactions come between. -/
def Obligations.ReadsReturnTheLastWrite : Prop :=
  ∀ (i : Fin 4) (is : List Instr) (s t u : State) (v : Word) (z y : Nat), execAll is t = .next u →
    sizeOk y = true → (∀ j ∈ is, writesReg i j = false ∧ j ≠ .reset) →
    (exec (writeOf i v z) s = .next t → exec (readOf i y) u = .next (u.setReply (some (.data y v)))) ∧
    (exec .init s = .next t ∨ exec .reset s = .next t →
      exec (readOf i y) u = .next (u.setReply (some (.data y 0))))

/-- R27, R311: a bus-transfer call that never returns leaves the transaction that made it without a step. One step at a
time the doorbell itself has none; in phases the land phase has none, and it stays so for ever, since every step that
there is leaves the doorbell in flight and the call without a return; and nothing else is refused so. That "no step"
is a refusal of the model is log entry 9; how a call that never returns stands in the State is log entry 5. -/
def Obligations.HungBusCallsNeverComplete : Prop :=
  (∀ (s : State) (v : Word) (z : Nat) (a : Word), Ready s → sizeOk z = true → s.dev.status = .idle →
    s.cfg.serialized = true → deviceSide s.dev.dma = some a → TransferFits a s.dev.dma.len →
    s.busReturns = false → exec (.wrDoorbell v z) s = .refused .busNeverReturns) ∧
  (∀ s : State, Ready s → s.cfg.serialized = false → s.dev.inflight = some .awaitBus → s.busReturns = false →
    agentTurn s = .refused .busNeverReturns) ∧
  (∀ s t : State, Inv s → s.life = .present → s.dev.inflight = some .awaitBus → s.busReturns = false →
    step s = .next t →
    t.dev.inflight = some .awaitBus ∧ t.dev.status = .executing ∧ t.dev.buf = s.dev.buf ∧ t.busReturns = false) ∧
  (∀ (s : State) (i : Instr), exec i s = .refused .busNeverReturns →
    (∃ v z, i = .wrDoorbell v z) ∧ s.cfg.serialized = true ∧ s.dev.status = .idle ∧ s.busReturns = false ∧
      ∃ a, deviceSide s.dev.dma = some a ∧ TransferFits a s.dev.dma.len) ∧
  ∀ s : State, agentTurn s = .refused .busNeverReturns →
    s.cfg.serialized = false ∧ s.dev.inflight = some .awaitBus ∧ s.busReturns = false
end

