-- ==== Sys2Proof/Laws/Operands.lean ====
section
/-! SUPPORT. The operand computations as arithmetic: the constants as numerals, the offset classes, the window
test's parts and the byte order. -/

namespace Sys2Proof

theorem windowLast_eq : Config.windowLast = 80 := rfl
theorem areaStart_eq : Config.areaStart = 65536 := rfl
theorem areaSize_eq : Config.areaSize = 4096 := rfl

theorem sizeOk_iff {z : Nat} : sizeOk z = true ↔ 4 ≤ z ∧ z ≤ 8 := by simp [sizeOk]

theorem offsetUnmapped_iff {o : Word} : offsetUnmapped o = true ↔ o.toNat ≤ 80 ∧ o.toNat % 8 ≠ 0 := by
  simp [offsetUnmapped]

theorem offsetInvalid_iff {o : Word} : offsetInvalid o = true ↔ 80 < o.toNat := by
  simp [offsetInvalid]

theorem bufOffset_eq (a : Word) : bufOffset a = a.toNat - 65536 := rfl

theorem overruns_iff {off : Nat} {len : Word} : overruns off len = true ↔ 4096 < off + len.toNat := by
  simp [overruns]

/-- A full-size access delivers the value whole. -/
@[simp] theorem deliverWrite_eight (v : Word) : deliverWrite 8 v = v := by simp [deliverWrite]

/-- A value that fits the access is delivered whole (R85). -/
theorem deliverWrite_of_fits {z : Nat} {v : Word} (h : valueFits z v = true) :
    deliverWrite z v = v := by
  have hlt : v.toNat < 2 ^ (8 * z) := by simpa [valueFits] using h
  apply BitVec.eq_of_toNat_eq
  simp only [deliverWrite, BitVec.toNat_setWidth, Nat.mod_eq_of_lt hlt]
  exact Nat.mod_eq_of_lt v.isLt

@[simp] theorem length_bytesOfWord (n : Nat) (v : Word) : (bytesOfWord n v).length = n := by
  simp [bytesOfWord]

end Sys2Proof
end

