-- ==== Sys2Proof/Laws/Decode.lean ====
section
/-! SUPPORT. Decoding: what the two halves of the register map give an unmapped offset, and requests as accesses. -/

namespace Sys2Proof

/-- An offset that is no multiple of 8 is none of the eleven mapped reads (R126). -/
theorem decodeRead_unmapped {o : Word} (z : Nat) (h : o.toNat % 8 ≠ 0) : decodeRead o z = .rdUnmapped o z := by
  unfold decodeRead
  repeat' split
  all_goals first | rfl | (subst_vars; simp at h)

/-- An offset that is no multiple of 8 is none of the eleven mapped writes (R126). -/
theorem decodeWrite_unmapped {o : Word} (v : Word) (z : Nat) (h : o.toNat % 8 ≠ 0) :
    decodeWrite o v z = .wrUnmapped o v z := by
  unfold decodeWrite
  repeat' split
  all_goals first | rfl | (subst_vars; simp at h)

/-- In the window the direction chooses the half of the register map (R123). -/
theorem decodeAccess_in_window {o : Word} (h : o.toNat ≤ 80) (w : Bool) (v : Word) (z : Nat) :
    decodeAccess w o v z = if w then decodeWrite o v z else decodeRead o z := by
  simp [decodeAccess, Nat.not_lt.mpr h]

/-- Above the window every access is invalid (R127). -/
theorem decodeAccess_above_window {o : Word} (h : 80 < o.toNat) (w : Bool) (v : Word) (z : Nat) :
    decodeAccess w o v z = if w then .wrInvalid o v z else .rdInvalid o z := by
  simp [decodeAccess, h]

end Sys2Proof
end

