-- ==== Sys2Proof/Laws/Memory.lean ====
section
/-! SUPPORT. The laws of the DMA buffer: a read after a write, what a write leaves alone, and that every
operation keeps the canonical form. -/

namespace Sys2Proof.Machine

@[simp] theorem Memory.read_nil (a : Nat) : Memory.read [] a = 0#8 := rfl

@[simp] theorem Memory.wf_nil : Memory.wf [] = true := rfl

/-- Below the lower bound of a well-formed memory nothing is listed. -/
theorem Memory.read_below {m : Memory} {lo a : Nat} (h : m.wfFrom lo = true) (ha : a < lo) :
    m.read a = 0#8 := by
  induction m generalizing lo with
  | nil => rfl
  | cons cell rest ih =>
    obtain ⟨c, v⟩ := cell
    simp only [Memory.wfFrom, Bool.and_eq_true, decide_eq_true_eq] at h
    obtain ⟨⟨⟨hlo, -⟩, -⟩, hrest⟩ := h
    rw [Memory.read, if_neg (by omega)]
    exact ih hrest (by omega)

/-- The lower bound may be lowered. -/
theorem Memory.wfFrom_mono {m : Memory} {lo lo' : Nat} (h : m.wfFrom lo = true) (hle : lo' ≤ lo) :
    m.wfFrom lo' = true := by
  cases m with
  | nil => rfl
  | cons cell rest =>
    obtain ⟨c, v⟩ := cell
    simp only [Memory.wfFrom, Bool.and_eq_true, decide_eq_true_eq] at h ⊢
    exact ⟨⟨⟨by omega, h.1.1.2⟩, h.1.2⟩, h.2⟩

/-- The byte written reads back. -/
theorem Memory.read_write_same {m : Memory} {lo : Nat} (h : m.wfFrom lo = true) (a : Nat) (b : Byte) :
    (m.write a b).read a = b := by
  induction m generalizing lo with
  | nil => by_cases hb : b = 0#8 <;> simp [Memory.write, Memory.read, hb]
  | cons cell rest ih =>
    obtain ⟨c, v⟩ := cell
    simp only [Memory.wfFrom, Bool.and_eq_true, decide_eq_true_eq] at h
    obtain ⟨-, hrest⟩ := h
    rw [Memory.write]
    split
    · rename_i hac
      split
      · rename_i hb
        rw [Memory.read, if_neg (by omega), Memory.read_below hrest (by omega), hb]
      · simp [Memory.read]
    · split
      · rename_i hac
        subst hac
        split
        · rename_i hb
          rw [Memory.read_below hrest (by omega), hb]
        · simp [Memory.read]
      · rename_i hne
        rw [Memory.read, if_neg (by omega)]
        exact ih hrest

/-- A write leaves every other byte alone. -/
theorem Memory.read_write_other (m : Memory) {a a' : Nat} (hne : a' ≠ a) (b : Byte) :
    (m.write a b).read a' = m.read a' := by
  induction m with
  | nil =>
    by_cases hb : b = 0#8
    · simp [Memory.write, hb]
    · simp [Memory.write, Memory.read, hb, Ne.symm hne]
  | cons cell rest ih =>
    obtain ⟨c, v⟩ := cell
    rw [Memory.write]
    split
    · split
      · rfl
      · simp [Memory.read, Ne.symm hne]
    · split
      · rename_i hac
        subst hac
        split <;> simp [Memory.read, Ne.symm hne]
      · simp only [Memory.read]
        split
        · rfl
        · exact ih

/-- A write inside the buffer keeps the canonical form. -/
theorem Memory.wfFrom_write {m : Memory} {lo a : Nat} (h : m.wfFrom lo = true) (hlo : lo ≤ a)
    (ha : a < Config.areaSize) (b : Byte) : (m.write a b).wfFrom lo = true := by
  induction m generalizing lo with
  | nil => by_cases hb : b = 0#8 <;> simp [Memory.write, Memory.wfFrom, hb, hlo, ha]
  | cons cell rest ih =>
    obtain ⟨c, v⟩ := cell
    have hc := h
    simp only [Memory.wfFrom, Bool.and_eq_true, decide_eq_true_eq] at hc
    obtain ⟨⟨⟨hloc, hca⟩, hv⟩, hrest⟩ := hc
    rw [Memory.write]
    split
    · split
      · exact h
      · rename_i hac hb
        simp only [Memory.wfFrom, Bool.and_eq_true, decide_eq_true_eq]
        exact ⟨⟨⟨hlo, ha⟩, by simpa using hb⟩, ⟨⟨by omega, hca⟩, hv⟩, hrest⟩
    · split
      · rename_i hac
        subst hac
        split
        · exact Memory.wfFrom_mono hrest (by omega)
        · rename_i hb
          simp only [Memory.wfFrom, Bool.and_eq_true, decide_eq_true_eq]
          exact ⟨⟨⟨hlo, ha⟩, by simpa using hb⟩, hrest⟩
      · simp only [Memory.wfFrom, Bool.and_eq_true, decide_eq_true_eq]
        exact ⟨⟨⟨hloc, hca⟩, hv⟩, ih hrest (by omega)⟩

theorem Memory.wf_write {m : Memory} (h : m.wf = true) {a : Nat} (ha : a < Config.areaSize) (b : Byte) :
    (m.write a b).wf = true :=
  Memory.wfFrom_write h (Nat.zero_le _) ha b

/-- A block written inside the buffer keeps the canonical form. -/
theorem Memory.wf_writeBytes {m : Memory} (h : m.wf = true) {k : Nat} {data : List Byte}
    (hk : k + data.length ≤ Config.areaSize) : (m.writeBytes k data).wf = true := by
  induction data generalizing m k with
  | nil => exact h
  | cons b rest ih =>
    simp only [List.length_cons] at hk
    exact ih (Memory.wf_write h (by omega) b) (by omega)

/-- A block leaves every byte outside it alone. -/
theorem Memory.read_writeBytes_outside (m : Memory) {k a : Nat} {data : List Byte}
    (ha : a < k ∨ k + data.length ≤ a) : (m.writeBytes k data).read a = m.read a := by
  induction data generalizing m k with
  | nil => rfl
  | cons b rest ih =>
    simp only [List.length_cons] at ha
    rw [Memory.writeBytes, ih _ (by omega), Memory.read_write_other _ (by omega)]

/-- Byte `j` of a block written reads back. -/
theorem Memory.read_writeBytes_inside {m : Memory} (h : m.wf = true) {k j : Nat} {data : List Byte}
    (hk : k + data.length ≤ Config.areaSize) (hj : j < data.length) :
    (m.writeBytes k data).read (k + j) = data[j] := by
  induction data generalizing m k j with
  | nil => simp at hj
  | cons b rest ih =>
    simp only [List.length_cons] at hk hj
    rw [Memory.writeBytes]
    cases j with
    | zero =>
      rw [Memory.read_writeBytes_outside _ (by omega)]
      exact Memory.read_write_same h k b
    | succ j =>
      have := ih (m := m.write k b) (Memory.wf_write h (by omega) b) (k := k + 1) (j := j) (by omega) (by omega)
      simpa [Nat.add_assoc, Nat.add_comm 1 j] using this

@[simp] theorem Memory.length_readBytes (m : Memory) (k n : Nat) : (m.readBytes k n).length = n := by
  simp [Memory.readBytes]

end Sys2Proof.Machine
end

