-- ==== Sys2Proof/Laws/State.lean ====
section
/-! SUPPORT. One lemma per field per update of the State, each true by unfolding, so that no proof unfolds a
record update. -/

namespace Sys2Proof.Machine

/-! ### setLife -/

@[simp] theorem State.setLife_cfg (s : State) (x : Life) : (s.setLife x).cfg = s.cfg := rfl
@[simp] theorem State.setLife_life (s : State) (x : Life) : (s.setLife x).life = x := rfl
@[simp] theorem State.setLife_dev (s : State) (x : Life) : (s.setLife x).dev = s.dev := rfl
@[simp] theorem State.setLife_trace (s : State) (x : Life) : (s.setLife x).trace = s.trace := rfl
@[simp] theorem State.setLife_reply (s : State) (x : Life) : (s.setLife x).reply = s.reply := rfl
@[simp] theorem State.setLife_inbox (s : State) (x : Life) : (s.setLife x).inbox = s.inbox := rfl
@[simp] theorem State.setLife_env (s : State) (x : Life) : (s.setLife x).env = s.env := rfl
@[simp] theorem State.setLife_draws (s : State) (x : Life) : (s.setLife x).draws = s.draws := rfl

/-! ### setReply -/

@[simp] theorem State.setReply_cfg (s : State) (x : Option Reply) : (s.setReply x).cfg = s.cfg := rfl
@[simp] theorem State.setReply_life (s : State) (x : Option Reply) : (s.setReply x).life = s.life := rfl
@[simp] theorem State.setReply_dev (s : State) (x : Option Reply) : (s.setReply x).dev = s.dev := rfl
@[simp] theorem State.setReply_trace (s : State) (x : Option Reply) : (s.setReply x).trace = s.trace := rfl
@[simp] theorem State.setReply_reply (s : State) (x : Option Reply) : (s.setReply x).reply = x := rfl
@[simp] theorem State.setReply_inbox (s : State) (x : Option Reply) : (s.setReply x).inbox = s.inbox := rfl
@[simp] theorem State.setReply_env (s : State) (x : Option Reply) : (s.setReply x).env = s.env := rfl
@[simp] theorem State.setReply_draws (s : State) (x : Option Reply) : (s.setReply x).draws = s.draws := rfl

/-! ### setInbox -/

@[simp] theorem State.setInbox_cfg (s : State) (x : List Turn) : (s.setInbox x).cfg = s.cfg := rfl
@[simp] theorem State.setInbox_life (s : State) (x : List Turn) : (s.setInbox x).life = s.life := rfl
@[simp] theorem State.setInbox_dev (s : State) (x : List Turn) : (s.setInbox x).dev = s.dev := rfl
@[simp] theorem State.setInbox_trace (s : State) (x : List Turn) : (s.setInbox x).trace = s.trace := rfl
@[simp] theorem State.setInbox_reply (s : State) (x : List Turn) : (s.setInbox x).reply = s.reply := rfl
@[simp] theorem State.setInbox_inbox (s : State) (x : List Turn) : (s.setInbox x).inbox = x := rfl
@[simp] theorem State.setInbox_env (s : State) (x : List Turn) : (s.setInbox x).env = s.env := rfl
@[simp] theorem State.setInbox_draws (s : State) (x : List Turn) : (s.setInbox x).draws = s.draws := rfl

/-! ### setDev -/

@[simp] theorem State.setDev_cfg (s : State) (x : Device) : (s.setDev x).cfg = s.cfg := rfl
@[simp] theorem State.setDev_life (s : State) (x : Device) : (s.setDev x).life = s.life := rfl
@[simp] theorem State.setDev_dev (s : State) (x : Device) : (s.setDev x).dev = x := rfl
@[simp] theorem State.setDev_trace (s : State) (x : Device) : (s.setDev x).trace = s.trace := rfl
@[simp] theorem State.setDev_reply (s : State) (x : Device) : (s.setDev x).reply = s.reply := rfl
@[simp] theorem State.setDev_inbox (s : State) (x : Device) : (s.setDev x).inbox = s.inbox := rfl
@[simp] theorem State.setDev_env (s : State) (x : Device) : (s.setDev x).env = s.env := rfl
@[simp] theorem State.setDev_draws (s : State) (x : Device) : (s.setDev x).draws = s.draws := rfl

/-! ### emit -/

@[simp] theorem State.emit_cfg (s : State) (e : Event) : (s.emit e).cfg = s.cfg := rfl
@[simp] theorem State.emit_life (s : State) (e : Event) : (s.emit e).life = s.life := rfl
@[simp] theorem State.emit_dev (s : State) (e : Event) : (s.emit e).dev = s.dev := rfl
@[simp] theorem State.emit_trace (s : State) (e : Event) : (s.emit e).trace = s.trace ++ [e] := rfl
@[simp] theorem State.emit_reply (s : State) (e : Event) : (s.emit e).reply = s.reply := rfl
@[simp] theorem State.emit_inbox (s : State) (e : Event) : (s.emit e).inbox = s.inbox := rfl
@[simp] theorem State.emit_env (s : State) (e : Event) : (s.emit e).env = s.env := rfl
@[simp] theorem State.emit_draws (s : State) (e : Event) : (s.emit e).draws = s.draws := rfl

/-! ### logPoint -/

@[simp] theorem State.logPoint_cfg (s : State) (k : LogKind) : (s.logPoint k).cfg = s.cfg := rfl
@[simp] theorem State.logPoint_life (s : State) (k : LogKind) : (s.logPoint k).life = s.life := rfl
@[simp] theorem State.logPoint_dev (s : State) (k : LogKind) : (s.logPoint k).dev = s.dev := rfl
@[simp] theorem State.logPoint_trace (s : State) (k : LogKind) : (s.logPoint k).trace = s.trace ++ logEvents s.draws k := rfl
@[simp] theorem State.logPoint_reply (s : State) (k : LogKind) : (s.logPoint k).reply = s.reply := rfl
@[simp] theorem State.logPoint_inbox (s : State) (k : LogKind) : (s.logPoint k).inbox = s.inbox := rfl
@[simp] theorem State.logPoint_env (s : State) (k : LogKind) : (s.logPoint k).env = s.env := rfl
@[simp] theorem State.logPoint_draws (s : State) (k : LogKind) : (s.logPoint k).draws = s.draws + 1 := rfl

/-! ### takeAnswer -/

@[simp] theorem State.takeAnswer_cfg (s : State) : (s.takeAnswer).cfg = s.cfg := rfl
@[simp] theorem State.takeAnswer_life (s : State) : (s.takeAnswer).life = s.life := rfl
@[simp] theorem State.takeAnswer_dev (s : State) : (s.takeAnswer).dev = s.dev := rfl
@[simp] theorem State.takeAnswer_trace (s : State) : (s.takeAnswer).trace = s.trace := rfl
@[simp] theorem State.takeAnswer_reply (s : State) : (s.takeAnswer).reply = s.reply := rfl
@[simp] theorem State.takeAnswer_inbox (s : State) : (s.takeAnswer).inbox = s.inbox := rfl
@[simp] theorem State.takeAnswer_env (s : State) : (s.takeAnswer).env = s.env.tail := rfl
@[simp] theorem State.takeAnswer_draws (s : State) : (s.takeAnswer).draws = s.draws + 1 := rfl

/-! ### setReg -/

@[simp] theorem State.setReg_cfg (s : State) (i : Fin 4) (v : Word) : (s.setReg i v).cfg = s.cfg := rfl
@[simp] theorem State.setReg_life (s : State) (i : Fin 4) (v : Word) : (s.setReg i v).life = s.life := rfl
@[simp] theorem State.setReg_trace (s : State) (i : Fin 4) (v : Word) : (s.setReg i v).trace = s.trace := rfl
@[simp] theorem State.setReg_reply (s : State) (i : Fin 4) (v : Word) : (s.setReg i v).reply = s.reply := rfl
@[simp] theorem State.setReg_inbox (s : State) (i : Fin 4) (v : Word) : (s.setReg i v).inbox = s.inbox := rfl
@[simp] theorem State.setReg_env (s : State) (i : Fin 4) (v : Word) : (s.setReg i v).env = s.env := rfl
@[simp] theorem State.setReg_draws (s : State) (i : Fin 4) (v : Word) : (s.setReg i v).draws = s.draws := rfl
@[simp] theorem State.setReg_reg (s : State) (i : Fin 4) (v : Word) : (s.setReg i v).dev.reg = s.dev.reg.set i v := rfl
@[simp] theorem State.setReg_dma (s : State) (i : Fin 4) (v : Word) : (s.setReg i v).dev.dma = s.dev.dma := rfl
@[simp] theorem State.setReg_status (s : State) (i : Fin 4) (v : Word) : (s.setReg i v).dev.status = s.dev.status := rfl
@[simp] theorem State.setReg_buf (s : State) (i : Fin 4) (v : Word) : (s.setReg i v).dev.buf = s.dev.buf := rfl
@[simp] theorem State.setReg_irq (s : State) (i : Fin 4) (v : Word) : (s.setReg i v).dev.irq = s.dev.irq := rfl
@[simp] theorem State.setReg_released (s : State) (i : Fin 4) (v : Word) : (s.setReg i v).dev.released = s.dev.released := rfl
@[simp] theorem State.setReg_fault (s : State) (i : Fin 4) (v : Word) : (s.setReg i v).dev.fault = s.dev.fault := rfl
@[simp] theorem State.setReg_inflight (s : State) (i : Fin 4) (v : Word) : (s.setReg i v).dev.inflight = s.dev.inflight := rfl

/-! ### clearRegs -/

@[simp] theorem State.clearRegs_cfg (s : State) : (s.clearRegs).cfg = s.cfg := rfl
@[simp] theorem State.clearRegs_life (s : State) : (s.clearRegs).life = s.life := rfl
@[simp] theorem State.clearRegs_trace (s : State) : (s.clearRegs).trace = s.trace := rfl
@[simp] theorem State.clearRegs_reply (s : State) : (s.clearRegs).reply = s.reply := rfl
@[simp] theorem State.clearRegs_inbox (s : State) : (s.clearRegs).inbox = s.inbox := rfl
@[simp] theorem State.clearRegs_env (s : State) : (s.clearRegs).env = s.env := rfl
@[simp] theorem State.clearRegs_draws (s : State) : (s.clearRegs).draws = s.draws := rfl
@[simp] theorem State.clearRegs_reg (s : State) : (s.clearRegs).dev.reg = Vector.replicate 4 0#64 := rfl
@[simp] theorem State.clearRegs_dma (s : State) : (s.clearRegs).dev.dma = s.dev.dma := rfl
@[simp] theorem State.clearRegs_status (s : State) : (s.clearRegs).dev.status = s.dev.status := rfl
@[simp] theorem State.clearRegs_buf (s : State) : (s.clearRegs).dev.buf = s.dev.buf := rfl
@[simp] theorem State.clearRegs_irq (s : State) : (s.clearRegs).dev.irq = s.dev.irq := rfl
@[simp] theorem State.clearRegs_released (s : State) : (s.clearRegs).dev.released = s.dev.released := rfl
@[simp] theorem State.clearRegs_fault (s : State) : (s.clearRegs).dev.fault = s.dev.fault := rfl
@[simp] theorem State.clearRegs_inflight (s : State) : (s.clearRegs).dev.inflight = s.dev.inflight := rfl

/-! ### setDma -/

@[simp] theorem State.setDma_cfg (s : State) (x : DmaConfig) : (s.setDma x).cfg = s.cfg := rfl
@[simp] theorem State.setDma_life (s : State) (x : DmaConfig) : (s.setDma x).life = s.life := rfl
@[simp] theorem State.setDma_trace (s : State) (x : DmaConfig) : (s.setDma x).trace = s.trace := rfl
@[simp] theorem State.setDma_reply (s : State) (x : DmaConfig) : (s.setDma x).reply = s.reply := rfl
@[simp] theorem State.setDma_inbox (s : State) (x : DmaConfig) : (s.setDma x).inbox = s.inbox := rfl
@[simp] theorem State.setDma_env (s : State) (x : DmaConfig) : (s.setDma x).env = s.env := rfl
@[simp] theorem State.setDma_draws (s : State) (x : DmaConfig) : (s.setDma x).draws = s.draws := rfl
@[simp] theorem State.setDma_reg (s : State) (x : DmaConfig) : (s.setDma x).dev.reg = s.dev.reg := rfl
@[simp] theorem State.setDma_dma (s : State) (x : DmaConfig) : (s.setDma x).dev.dma = x := rfl
@[simp] theorem State.setDma_status (s : State) (x : DmaConfig) : (s.setDma x).dev.status = s.dev.status := rfl
@[simp] theorem State.setDma_buf (s : State) (x : DmaConfig) : (s.setDma x).dev.buf = s.dev.buf := rfl
@[simp] theorem State.setDma_irq (s : State) (x : DmaConfig) : (s.setDma x).dev.irq = s.dev.irq := rfl
@[simp] theorem State.setDma_released (s : State) (x : DmaConfig) : (s.setDma x).dev.released = s.dev.released := rfl
@[simp] theorem State.setDma_fault (s : State) (x : DmaConfig) : (s.setDma x).dev.fault = s.dev.fault := rfl
@[simp] theorem State.setDma_inflight (s : State) (x : DmaConfig) : (s.setDma x).dev.inflight = s.dev.inflight := rfl

/-! ### setStatus -/

@[simp] theorem State.setStatus_cfg (s : State) (x : DmaStatus) : (s.setStatus x).cfg = s.cfg := rfl
@[simp] theorem State.setStatus_life (s : State) (x : DmaStatus) : (s.setStatus x).life = s.life := rfl
@[simp] theorem State.setStatus_trace (s : State) (x : DmaStatus) : (s.setStatus x).trace = s.trace := rfl
@[simp] theorem State.setStatus_reply (s : State) (x : DmaStatus) : (s.setStatus x).reply = s.reply := rfl
@[simp] theorem State.setStatus_inbox (s : State) (x : DmaStatus) : (s.setStatus x).inbox = s.inbox := rfl
@[simp] theorem State.setStatus_env (s : State) (x : DmaStatus) : (s.setStatus x).env = s.env := rfl
@[simp] theorem State.setStatus_draws (s : State) (x : DmaStatus) : (s.setStatus x).draws = s.draws := rfl
@[simp] theorem State.setStatus_reg (s : State) (x : DmaStatus) : (s.setStatus x).dev.reg = s.dev.reg := rfl
@[simp] theorem State.setStatus_dma (s : State) (x : DmaStatus) : (s.setStatus x).dev.dma = s.dev.dma := rfl
@[simp] theorem State.setStatus_status (s : State) (x : DmaStatus) : (s.setStatus x).dev.status = x := rfl
@[simp] theorem State.setStatus_buf (s : State) (x : DmaStatus) : (s.setStatus x).dev.buf = s.dev.buf := rfl
@[simp] theorem State.setStatus_irq (s : State) (x : DmaStatus) : (s.setStatus x).dev.irq = s.dev.irq := rfl
@[simp] theorem State.setStatus_released (s : State) (x : DmaStatus) : (s.setStatus x).dev.released = s.dev.released := rfl
@[simp] theorem State.setStatus_fault (s : State) (x : DmaStatus) : (s.setStatus x).dev.fault = s.dev.fault := rfl
@[simp] theorem State.setStatus_inflight (s : State) (x : DmaStatus) : (s.setStatus x).dev.inflight = s.dev.inflight := rfl

/-! ### setBuf -/

@[simp] theorem State.setBuf_cfg (s : State) (x : Memory) : (s.setBuf x).cfg = s.cfg := rfl
@[simp] theorem State.setBuf_life (s : State) (x : Memory) : (s.setBuf x).life = s.life := rfl
@[simp] theorem State.setBuf_trace (s : State) (x : Memory) : (s.setBuf x).trace = s.trace := rfl
@[simp] theorem State.setBuf_reply (s : State) (x : Memory) : (s.setBuf x).reply = s.reply := rfl
@[simp] theorem State.setBuf_inbox (s : State) (x : Memory) : (s.setBuf x).inbox = s.inbox := rfl
@[simp] theorem State.setBuf_env (s : State) (x : Memory) : (s.setBuf x).env = s.env := rfl
@[simp] theorem State.setBuf_draws (s : State) (x : Memory) : (s.setBuf x).draws = s.draws := rfl
@[simp] theorem State.setBuf_reg (s : State) (x : Memory) : (s.setBuf x).dev.reg = s.dev.reg := rfl
@[simp] theorem State.setBuf_dma (s : State) (x : Memory) : (s.setBuf x).dev.dma = s.dev.dma := rfl
@[simp] theorem State.setBuf_status (s : State) (x : Memory) : (s.setBuf x).dev.status = s.dev.status := rfl
@[simp] theorem State.setBuf_buf (s : State) (x : Memory) : (s.setBuf x).dev.buf = x := rfl
@[simp] theorem State.setBuf_irq (s : State) (x : Memory) : (s.setBuf x).dev.irq = s.dev.irq := rfl
@[simp] theorem State.setBuf_released (s : State) (x : Memory) : (s.setBuf x).dev.released = s.dev.released := rfl
@[simp] theorem State.setBuf_fault (s : State) (x : Memory) : (s.setBuf x).dev.fault = s.dev.fault := rfl
@[simp] theorem State.setBuf_inflight (s : State) (x : Memory) : (s.setBuf x).dev.inflight = s.dev.inflight := rfl

/-! ### setIrq -/

@[simp] theorem State.setIrq_cfg (s : State) (x : IrqState) : (s.setIrq x).cfg = s.cfg := rfl
@[simp] theorem State.setIrq_life (s : State) (x : IrqState) : (s.setIrq x).life = s.life := rfl
@[simp] theorem State.setIrq_trace (s : State) (x : IrqState) : (s.setIrq x).trace = s.trace := rfl
@[simp] theorem State.setIrq_reply (s : State) (x : IrqState) : (s.setIrq x).reply = s.reply := rfl
@[simp] theorem State.setIrq_inbox (s : State) (x : IrqState) : (s.setIrq x).inbox = s.inbox := rfl
@[simp] theorem State.setIrq_env (s : State) (x : IrqState) : (s.setIrq x).env = s.env := rfl
@[simp] theorem State.setIrq_draws (s : State) (x : IrqState) : (s.setIrq x).draws = s.draws := rfl
@[simp] theorem State.setIrq_reg (s : State) (x : IrqState) : (s.setIrq x).dev.reg = s.dev.reg := rfl
@[simp] theorem State.setIrq_dma (s : State) (x : IrqState) : (s.setIrq x).dev.dma = s.dev.dma := rfl
@[simp] theorem State.setIrq_status (s : State) (x : IrqState) : (s.setIrq x).dev.status = s.dev.status := rfl
@[simp] theorem State.setIrq_buf (s : State) (x : IrqState) : (s.setIrq x).dev.buf = s.dev.buf := rfl
@[simp] theorem State.setIrq_irq (s : State) (x : IrqState) : (s.setIrq x).dev.irq = x := rfl
@[simp] theorem State.setIrq_released (s : State) (x : IrqState) : (s.setIrq x).dev.released = s.dev.released := rfl
@[simp] theorem State.setIrq_fault (s : State) (x : IrqState) : (s.setIrq x).dev.fault = s.dev.fault := rfl
@[simp] theorem State.setIrq_inflight (s : State) (x : IrqState) : (s.setIrq x).dev.inflight = s.dev.inflight := rfl

/-! ### setReleased -/

@[simp] theorem State.setReleased_cfg (s : State) (x : Bool) : (s.setReleased x).cfg = s.cfg := rfl
@[simp] theorem State.setReleased_life (s : State) (x : Bool) : (s.setReleased x).life = s.life := rfl
@[simp] theorem State.setReleased_trace (s : State) (x : Bool) : (s.setReleased x).trace = s.trace := rfl
@[simp] theorem State.setReleased_reply (s : State) (x : Bool) : (s.setReleased x).reply = s.reply := rfl
@[simp] theorem State.setReleased_inbox (s : State) (x : Bool) : (s.setReleased x).inbox = s.inbox := rfl
@[simp] theorem State.setReleased_env (s : State) (x : Bool) : (s.setReleased x).env = s.env := rfl
@[simp] theorem State.setReleased_draws (s : State) (x : Bool) : (s.setReleased x).draws = s.draws := rfl
@[simp] theorem State.setReleased_reg (s : State) (x : Bool) : (s.setReleased x).dev.reg = s.dev.reg := rfl
@[simp] theorem State.setReleased_dma (s : State) (x : Bool) : (s.setReleased x).dev.dma = s.dev.dma := rfl
@[simp] theorem State.setReleased_status (s : State) (x : Bool) : (s.setReleased x).dev.status = s.dev.status := rfl
@[simp] theorem State.setReleased_buf (s : State) (x : Bool) : (s.setReleased x).dev.buf = s.dev.buf := rfl
@[simp] theorem State.setReleased_irq (s : State) (x : Bool) : (s.setReleased x).dev.irq = s.dev.irq := rfl
@[simp] theorem State.setReleased_released (s : State) (x : Bool) : (s.setReleased x).dev.released = x := rfl
@[simp] theorem State.setReleased_fault (s : State) (x : Bool) : (s.setReleased x).dev.fault = s.dev.fault := rfl
@[simp] theorem State.setReleased_inflight (s : State) (x : Bool) : (s.setReleased x).dev.inflight = s.dev.inflight := rfl

/-! ### setFault -/

@[simp] theorem State.setFault_cfg (s : State) (x : Option Fault) : (s.setFault x).cfg = s.cfg := rfl
@[simp] theorem State.setFault_life (s : State) (x : Option Fault) : (s.setFault x).life = s.life := rfl
@[simp] theorem State.setFault_trace (s : State) (x : Option Fault) : (s.setFault x).trace = s.trace := rfl
@[simp] theorem State.setFault_reply (s : State) (x : Option Fault) : (s.setFault x).reply = s.reply := rfl
@[simp] theorem State.setFault_inbox (s : State) (x : Option Fault) : (s.setFault x).inbox = s.inbox := rfl
@[simp] theorem State.setFault_env (s : State) (x : Option Fault) : (s.setFault x).env = s.env := rfl
@[simp] theorem State.setFault_draws (s : State) (x : Option Fault) : (s.setFault x).draws = s.draws := rfl
@[simp] theorem State.setFault_reg (s : State) (x : Option Fault) : (s.setFault x).dev.reg = s.dev.reg := rfl
@[simp] theorem State.setFault_dma (s : State) (x : Option Fault) : (s.setFault x).dev.dma = s.dev.dma := rfl
@[simp] theorem State.setFault_status (s : State) (x : Option Fault) : (s.setFault x).dev.status = s.dev.status := rfl
@[simp] theorem State.setFault_buf (s : State) (x : Option Fault) : (s.setFault x).dev.buf = s.dev.buf := rfl
@[simp] theorem State.setFault_irq (s : State) (x : Option Fault) : (s.setFault x).dev.irq = s.dev.irq := rfl
@[simp] theorem State.setFault_released (s : State) (x : Option Fault) : (s.setFault x).dev.released = s.dev.released := rfl
@[simp] theorem State.setFault_fault (s : State) (x : Option Fault) : (s.setFault x).dev.fault = x := rfl
@[simp] theorem State.setFault_inflight (s : State) (x : Option Fault) : (s.setFault x).dev.inflight = s.dev.inflight := rfl

/-! ### setInflight -/

@[simp] theorem State.setInflight_cfg (s : State) (x : Option DmaPhase) : (s.setInflight x).cfg = s.cfg := rfl
@[simp] theorem State.setInflight_life (s : State) (x : Option DmaPhase) : (s.setInflight x).life = s.life := rfl
@[simp] theorem State.setInflight_trace (s : State) (x : Option DmaPhase) : (s.setInflight x).trace = s.trace := rfl
@[simp] theorem State.setInflight_reply (s : State) (x : Option DmaPhase) : (s.setInflight x).reply = s.reply := rfl
@[simp] theorem State.setInflight_inbox (s : State) (x : Option DmaPhase) : (s.setInflight x).inbox = s.inbox := rfl
@[simp] theorem State.setInflight_env (s : State) (x : Option DmaPhase) : (s.setInflight x).env = s.env := rfl
@[simp] theorem State.setInflight_draws (s : State) (x : Option DmaPhase) : (s.setInflight x).draws = s.draws := rfl
@[simp] theorem State.setInflight_reg (s : State) (x : Option DmaPhase) : (s.setInflight x).dev.reg = s.dev.reg := rfl
@[simp] theorem State.setInflight_dma (s : State) (x : Option DmaPhase) : (s.setInflight x).dev.dma = s.dev.dma := rfl
@[simp] theorem State.setInflight_status (s : State) (x : Option DmaPhase) : (s.setInflight x).dev.status = s.dev.status := rfl
@[simp] theorem State.setInflight_buf (s : State) (x : Option DmaPhase) : (s.setInflight x).dev.buf = s.dev.buf := rfl
@[simp] theorem State.setInflight_irq (s : State) (x : Option DmaPhase) : (s.setInflight x).dev.irq = s.dev.irq := rfl
@[simp] theorem State.setInflight_released (s : State) (x : Option DmaPhase) : (s.setInflight x).dev.released = s.dev.released := rfl
@[simp] theorem State.setInflight_fault (s : State) (x : Option DmaPhase) : (s.setInflight x).dev.fault = s.dev.fault := rfl
@[simp] theorem State.setInflight_inflight (s : State) (x : Option DmaPhase) : (s.setInflight x).dev.inflight = x := rfl

/-! ### logWhen -/

@[simp] theorem State.logWhen_cfg (s : State) (c : Bool) (k : LogKind) :
    (s.logWhen c k).cfg = s.cfg := by cases c <;> rfl

@[simp] theorem State.logWhen_life (s : State) (c : Bool) (k : LogKind) :
    (s.logWhen c k).life = s.life := by cases c <;> rfl

@[simp] theorem State.logWhen_dev (s : State) (c : Bool) (k : LogKind) :
    (s.logWhen c k).dev = s.dev := by cases c <;> rfl

@[simp] theorem State.logWhen_reply (s : State) (c : Bool) (k : LogKind) :
    (s.logWhen c k).reply = s.reply := by cases c <;> rfl

@[simp] theorem State.logWhen_inbox (s : State) (c : Bool) (k : LogKind) :
    (s.logWhen c k).inbox = s.inbox := by cases c <;> rfl

@[simp] theorem State.logWhen_env (s : State) (c : Bool) (k : LogKind) :
    (s.logWhen c k).env = s.env := by cases c <;> rfl

/-- What a conditional log point adds to the trace. -/
@[simp] theorem State.logWhen_trace (s : State) (c : Bool) (k : LogKind) :
    (s.logWhen c k).trace = s.trace ++ (if c then logEvents s.draws k else []) := by
  cases c <;> simp [State.logWhen]

@[simp] theorem State.logWhen_draws (s : State) (c : Bool) (k : LogKind) :
    (s.logWhen c k).draws = s.draws + c.toNat := by
  cases c <;> simp [State.logWhen]

/-- Two states are equal when every field is. -/
theorem State.ext_fields {s t : State} (hcfg : s.cfg = t.cfg) (hlife : s.life = t.life) (hdev : s.dev = t.dev)
    (htrace : s.trace = t.trace) (hreply : s.reply = t.reply) (hinbox : s.inbox = t.inbox)
    (henv : s.env = t.env) (hdraws : s.draws = t.draws) : s = t := by
  cases s; cases t; simp_all

end Sys2Proof.Machine
end

