-- ==== Sys2Proof/Laws/Ops.lean ====
section
/-! SUPPORT. What each shared operation can do, said once: the gates, sequencing, the log points, `raise` and
`lower`. -/

namespace Sys2Proof.Machine

/-! ### Sequencing -/

@[simp] theorem andThen_next (s : State) (k : State → Result) : andThen (.next s) k = k s := rfl

@[simp] theorem andThen_fault (f : Fault) (k : State → Result) : andThen (.fault f) k = .fault f := rfl

@[simp] theorem andThen_refused (f : Refusal) (k : State → Result) : andThen (.refused f) k = .refused f := rfl

/-- A sequence that answers a next state went through one. -/
theorem andThen_eq_next {r : Result} {k : State → Result} {t : State} (h : andThen r k = .next t) :
    ∃ u, r = .next u ∧ k u = .next t := by
  cases r with
  | next u => exact ⟨u, rfl, h⟩
  | fault f => cases h
  | refused f => cases h

/-- A sequence that faults did so in its first part or after a next state. -/
theorem andThen_eq_fault {r : Result} {k : State → Result} {f : Fault} (h : andThen r k = .fault f) :
    r = .fault f ∨ ∃ u, r = .next u ∧ k u = .fault f := by
  cases r with
  | next u => exact .inr ⟨u, rfl, h⟩
  | fault g => exact .inl h
  | refused g => cases h

/-- A sequence that is refused was so in its first part or after a next state. -/
theorem andThen_eq_refused {r : Result} {k : State → Result} {f : Refusal} (h : andThen r k = .refused f) :
    r = .refused f ∨ ∃ u, r = .next u ∧ k u = .refused f := by
  cases r with
  | next u => exact .inr ⟨u, rfl, h⟩
  | fault g => cases h
  | refused g => exact .inl h

@[simp] theorem returnAck_eq_next {s t : State} : returnAck s = .next t ↔ s.setReply (some .ack) = t := by
  simp [returnAck]

@[simp] theorem returnData_eq_next {size : Nat} {v : Word} {s t : State} :
    returnData size v s = .next t ↔ s.setReply (some (.data size v)) = t := by
  simp [returnData]

@[simp] theorem returnAck_ne_fault {s : State} {f : Fault} : returnAck s ≠ .fault f := by
  simp [returnAck]

@[simp] theorem returnData_ne_fault {size : Nat} {v : Word} {s : State} {f : Fault} :
    returnData size v s ≠ .fault f := by
  simp [returnData]

@[simp] theorem returnAck_ne_refused {s : State} {f : Refusal} : returnAck s ≠ .refused f := by
  simp [returnAck]

@[simp] theorem returnData_ne_refused {size : Nat} {v : Word} {s : State} {f : Refusal} :
    returnData size v s ≠ .refused f := by
  simp [returnData]

/-! ### The gates -/

/-- A Device that exists and has not faulted passes the gate. -/
theorem whenAlive_of_ready {s : State} (h : Ready s) (k : State → Result) : whenAlive s k = k s := by
  simp [whenAlive, h.1, h.2]

/-- What passed the gate exists and has not faulted. -/
theorem whenAlive_eq_next {s t : State} {k : State → Result} (h : whenAlive s k = .next t) :
    Ready s ∧ k s = .next t := by
  cases hl : s.life <;> cases hf : s.dev.fault <;>
    simp_all [whenAlive, Ready, raiseFault]

/-- A fault behind the gate is the sticky one or the transaction's own. -/
theorem whenAlive_eq_fault {s : State} {k : State → Result} {f : Fault} (h : whenAlive s k = .fault f) :
    s.dev.fault = some f ∨ (Ready s ∧ k s = .fault f) := by
  cases hl : s.life <;> cases hf : s.dev.fault <;>
    simp_all [whenAlive, Ready, raiseFault]

/-- A refusal behind the gate is that of a Device that does not exist or the transaction's own. -/
theorem whenAlive_eq_refused {s : State} {k : State → Result} {f : Refusal} (h : whenAlive s k = .refused f) :
    (s.life = .absent ∧ f = .beforeInit) ∨ (s.life = .tornDown ∧ f = .afterTeardown) ∨
      (Ready s ∧ k s = .refused f) := by
  cases hl : s.life <;> cases hf : s.dev.fault <;>
    simp_all [whenAlive, Ready, raiseFault]

theorem whenSize_of_ready {s : State} {size : Nat} (h : Ready s) (hs : sizeOk size = true)
    (k : State → Result) : whenSize size s k = k s := by
  simp [whenSize, whenAlive_of_ready h, hs]

theorem whenSize_eq_next {s t : State} {size : Nat} {k : State → Result} (h : whenSize size s k = .next t) :
    Ready s ∧ sizeOk size = true ∧ k s = .next t := by
  obtain ⟨hr, hk⟩ := whenAlive_eq_next h
  cases hs : sizeOk size <;> simp_all

theorem whenSize_eq_fault {s : State} {size : Nat} {k : State → Result} {f : Fault}
    (h : whenSize size s k = .fault f) : s.dev.fault = some f ∨ (Ready s ∧ k s = .fault f) := by
  rcases whenAlive_eq_fault h with h | ⟨hr, hk⟩
  · exact .inl h
  · cases hs : sizeOk size <;> simp_all

theorem whenSize_eq_refused {s : State} {size : Nat} {k : State → Result} {f : Refusal}
    (h : whenSize size s k = .refused f) :
    (s.life = .absent ∧ f = .beforeInit) ∨ (s.life = .tornDown ∧ f = .afterTeardown) ∨
      (Ready s ∧ sizeOk size = false ∧ f = .accessSize size) ∨ (Ready s ∧ k s = .refused f) := by
  rcases whenAlive_eq_refused h with h | h | ⟨hr, hk⟩
  · exact .inl h
  · exact .inr (.inl h)
  · cases hs : sizeOk size <;> simp_all

/-- The State with a size outside 4 to 8 has no step (R13). -/
theorem whenSize_of_bad_size {s : State} {size : Nat} (h : Ready s) (hs : sizeOk size = false)
    (k : State → Result) : whenSize size s k = .refused (.accessSize size) := by
  simp [whenSize, whenAlive_of_ready h, hs]

/-! ### Log points -/

/-- A log point emits its event or nothing (R26). -/
theorem logEvents_cases (n : Nat) (k : LogKind) : logEvents n k = [] ∨ logEvents n k = [.log k] := by
  cases h : Config.logDraw n <;> simp [logEvents, h]

/-! ### The Environment -/

/-- Whether the next call returns is the script's alone. -/
theorem busReturns_congr {s t : State} (h : t.env = s.env) : t.busReturns = s.busReturns := by
  simp [State.busReturns, h]

/-- An empty script and a scripted answer return; a scripted hang does not (R27). -/
theorem busReturns_iff {s : State} : s.busReturns = false ↔ ∃ rest, s.env = .neverReturns :: rest := by
  rcases h : s.env with _ | ⟨⟨a⟩ | _, rest⟩ <;> simp [State.busReturns, h]

/-! ### Vectors -/

/-- A vector flag after a write of a vector the device holds. -/
theorem vectorFlag_set (raised : Vector Bool 32) {v : Nat} (hv : v < 32) (b : Bool) (w : Nat) :
    vectorFlag (setVectorFlag raised v b) w = if w = v then b else vectorFlag raised w := by
  simp only [vectorFlag, setVectorFlag, Vector.getElem?_setIfInBounds, hv]
  by_cases h : v = w <;> simp [h, eq_comm]

@[simp] theorem vectorFlag_replicate (w : Nat) : vectorFlag (Vector.replicate 32 false) w = false := by
  simp only [vectorFlag, Vector.getElem?_replicate]
  split <;> rfl

/-- Clearing a flag that is clear changes nothing (R264). -/
theorem setVectorFlag_of_clear {raised : Vector Bool 32} {v : Nat} (hv : v < 32)
    (h : vectorFlag raised v = false) : setVectorFlag raised v false = raised := by
  ext i hi
  have := vectorFlag_set raised hv false i
  simp only [vectorFlag, Vector.getElem?_eq_getElem hi, Option.getD_some] at this h
  rw [this]
  split
  · subst_vars; simpa [Vector.getElem?_eq_getElem hi] using h.symm
  · rfl

/-! ### Raise and lower -/

/-- What a raise of vector 0 answers (R261, R262, R276). -/
theorem raiseIrq_zero (s : State) :
    raiseIrq 0 s =
      if isMessage s.dev.irq && s.dev.released then .fault .irqAfterRelease
      else .next ((s.setIrq (irqRaised s.dev.irq)).emit (raiseEvent s.dev.irq)) := by
  cases h : s.dev.irq <;> cases h' : s.dev.released <;>
    simp [raiseIrq, isMessage, irqRaised, raiseEvent, h, h', raiseFault]

/-- What a lower of vector 0 answers (R263, R264, R276). -/
theorem lowerIrq_zero (s : State) :
    lowerIrq 0 s =
      if isMessage s.dev.irq && s.dev.released then .fault .irqAfterRelease
      else .next { s.setIrq (irqLowered s.dev.irq) with trace := s.trace ++ lowerEvents s.dev.irq } := by
  cases h : s.dev.irq with
  | pin b => simp [lowerIrq, isMessage, irqLowered, lowerEvents, h, State.emit]
  | message r =>
    cases h' : s.dev.released
    · simp only [lowerIrq, isMessage, irqLowered, lowerEvents, h, h', List.append_nil]
      by_cases hf : vectorFlag r 0 = false
      · have : s.setIrq (.message (setVectorFlag r 0 false)) = s := by
          rw [setVectorFlag_of_clear (by omega) hf, ← h]; rfl
        simp [hf, this]
      · simp [hf]; rfl
    · simp [lowerIrq, isMessage, h, h', raiseFault]

theorem raiseIrq_of_live {s : State} (h : IrqLive s) :
    raiseIrq 0 s = .next ((s.setIrq (irqRaised s.dev.irq)).emit (raiseEvent s.dev.irq)) := by
  rw [raiseIrq_zero, if_neg]
  intro h'
  simp only [Bool.and_eq_true] at h'
  simp [h h'.1] at h'

theorem lowerIrq_of_live {s : State} (h : IrqLive s) :
    lowerIrq 0 s =
      .next { s.setIrq (irqLowered s.dev.irq) with trace := s.trace ++ lowerEvents s.dev.irq } := by
  rw [lowerIrq_zero, if_neg]
  intro h'
  simp only [Bool.and_eq_true] at h'
  simp [h h'.1] at h'

/-- A raise of vector 0 that answers a next state. -/
theorem raiseIrq_eq_next {s t : State} (h : raiseIrq 0 s = .next t) :
    IrqLive s ∧ t = (s.setIrq (irqRaised s.dev.irq)).emit (raiseEvent s.dev.irq) := by
  rw [raiseIrq_zero] at h
  split at h
  · cases h
  · rename_i hc
    exact ⟨fun hm => by simpa [hm] using hc, by cases h; rfl⟩

/-- A lower of vector 0 that answers a next state. -/
theorem lowerIrq_eq_next {s t : State} (h : lowerIrq 0 s = .next t) :
    IrqLive s ∧
      t = { s.setIrq (irqLowered s.dev.irq) with trace := s.trace ++ lowerEvents s.dev.irq } := by
  rw [lowerIrq_zero] at h
  split at h
  · cases h
  · rename_i hc
    exact ⟨fun hm => by simpa [hm] using hc, by cases h; rfl⟩

theorem raiseIrq_ne_refused (s : State) (f : Refusal) : raiseIrq 0 s ≠ .refused f := by
  rw [raiseIrq_zero]; split <;> simp

theorem lowerIrq_ne_refused (s : State) (f : Refusal) : lowerIrq 0 s ≠ .refused f := by
  rw [lowerIrq_zero]; split <;> simp

@[simp] theorem isMessage_irqRaised (irq : IrqState) : isMessage (irqRaised irq) = isMessage irq := by
  cases irq <;> rfl

@[simp] theorem isMessage_irqLowered (irq : IrqState) : isMessage (irqLowered irq) = isMessage irq := by
  cases irq <;> rfl

end Sys2Proof.Machine
end

