-- ==== Sys2Proof/Laws/Dma.lean ====
section
/-! SUPPORT. What the phases of a doorbell can do (R210 to R221, R330): the issue phase, the land phase, both in
one step, and the DMA agent's turn. -/

namespace Sys2Proof.Machine

/-! ### The issue phase -/

/-- The State in which the bus-transfer call of a transfer at device address `a` has been made: the optional
mask log, then the bus event (R213, R214, R216). -/
def issued (s : State) (a : Word) : State :=
  (s.logWhen (maskedAddr (busSide s.dev.dma) s.dev.dma.mask != busSide s.dev.dma) .addressMasked).emit
    (busEvent s.dev.dma (bufOffset a) s.dev.buf)

theorem overruns_eq_false {off : Nat} {len : Word} (h : off + len.toNat ≤ Config.areaSize) :
    overruns off len = false := by simp [overruns, h]

theorem overruns_eq_true {off : Nat} {len : Word} (h : Config.areaSize < off + len.toNat) :
    overruns off len = true := by simp [overruns, h]

/-- No transfer for another command (R212). -/
theorem issue_of_no_command {s : State} (h : deviceSide s.dev.dma = none) : issue s = .noCall s := by
  simp [issue, h]

/-- No transfer outside the window (R219). -/
theorem issue_of_out_of_window {s : State} {a : Word} (h : deviceSide s.dev.dma = some a)
    (hw : inWindow a = false) : issue s = .noCall (s.logPoint .transferOutOfBounds) := by
  simp [issue, h, hw]

/-- A transfer past the end of the buffer faults (R215). -/
theorem issue_of_overrun {s : State} {a : Word} (h : deviceSide s.dev.dma = some a) (hw : inWindow a = true)
    (ho : Config.areaSize < bufOffset a + s.dev.dma.len.toNat) : issue s = .fault .bufferOverrun := by
  simp [issue, h, hw, overruns_eq_true ho]

/-- A transfer that fits makes its bus-transfer call (R213, R214). -/
theorem issue_of_fits {s : State} {a : Word} (h : deviceSide s.dev.dma = some a)
    (hf : TransferFits a s.dev.dma.len) : issue s = .call (issued s a) := by
  simp [issue, h, hf.1, overruns_eq_false hf.2, issued]

/-- The issue phase makes a call only for a transfer that fits. -/
theorem issue_eq_call {s t : State} (h : issue s = .call t) :
    ∃ a, deviceSide s.dev.dma = some a ∧ TransferFits a s.dev.dma.len ∧ t = issued s a := by
  cases ha : deviceSide s.dev.dma with
  | none => simp [issue_of_no_command ha] at h
  | some a =>
    cases hw : inWindow a with
    | false => simp [issue_of_out_of_window ha hw] at h
    | true =>
      rcases Nat.lt_or_ge Config.areaSize (bufOffset a + s.dev.dma.len.toNat) with ho | ho
      · simp [issue_of_overrun ha hw ho] at h
      · rw [issue_of_fits ha ⟨hw, ho⟩] at h
        cases h
        exact ⟨a, rfl, ⟨hw, ho⟩, rfl⟩

/-- The issue phase without a call: another command, or an address outside the window. -/
theorem issue_eq_noCall {s t : State} (h : issue s = .noCall t) :
    (deviceSide s.dev.dma = none ∧ t = s) ∨
      ∃ a, deviceSide s.dev.dma = some a ∧ inWindow a = false ∧ t = s.logPoint .transferOutOfBounds := by
  cases ha : deviceSide s.dev.dma with
  | none => rw [issue_of_no_command ha] at h; cases h; exact .inl ⟨rfl, rfl⟩
  | some a =>
    cases hw : inWindow a with
    | false => rw [issue_of_out_of_window ha hw] at h; cases h; exact .inr ⟨a, rfl, hw, rfl⟩
    | true =>
      rcases Nat.lt_or_ge Config.areaSize (bufOffset a + s.dev.dma.len.toNat) with ho | ho
      · simp [issue_of_overrun ha hw ho] at h
      · simp [issue_of_fits ha ⟨hw, ho⟩] at h

/-- The only fault of the issue phase. -/
theorem issue_eq_fault {s : State} {f : Fault} (h : issue s = .fault f) :
    f = .bufferOverrun ∧ ∃ a, deviceSide s.dev.dma = some a ∧ inWindow a = true ∧
      Config.areaSize < bufOffset a + s.dev.dma.len.toNat := by
  cases ha : deviceSide s.dev.dma with
  | none => simp [issue_of_no_command ha] at h
  | some a =>
    cases hw : inWindow a with
    | false => simp [issue_of_out_of_window ha hw] at h
    | true =>
      rcases Nat.lt_or_ge Config.areaSize (bufOffset a + s.dev.dma.len.toNat) with ho | ho
      · rw [issue_of_overrun ha hw ho] at h; cases h; exact ⟨rfl, a, rfl, hw, ho⟩
      · simp [issue_of_fits ha ⟨hw, ho⟩] at h

/-- A command that is a transfer is one of the two (R212). -/
theorem deviceSide_eq_some {d : DmaConfig} {a : Word} (h : deviceSide d = some a) :
    (d.cmd = Config.cmdToDevice ∧ a = d.dst) ∨
      (d.cmd ≠ Config.cmdToDevice ∧ d.cmd = Config.cmdFromDevice ∧ a = d.src) := by
  unfold deviceSide at h
  split at h
  · cases h; exact .inl ⟨by assumption, rfl⟩
  · split at h
    · cases h; exact .inr ⟨by assumption, by assumption, rfl⟩
    · cases h

/-! ### The land phase -/

@[simp] theorem length_landedBytes (a : BusAnswer) (n len : Nat) : (landedBytes a n len).length = len := by
  simp [landedBytes]

/-- Byte `j` a bus read leaves. -/
theorem getElem_landedBytes (a : BusAnswer) (n len j : Nat) (h : j < (landedBytes a n len).length) :
    (landedBytes a n len)[j] = landedByte a n j := by
  simp [landedBytes]

/-- The buffer after the answer `answer`, taken at draw `n`, has arrived (R213, R214, R217). -/
def landedBuf (d : DmaConfig) (answer : BusAnswer) (n : Nat) (buf : Memory) : Memory :=
  if d.cmd = Config.cmdToDevice then buf.writeBytes (bufOffset d.dst) (landedBytes answer n d.len.toNat)
  else buf

/-- The State in which the answer has arrived and the completion vector been raised. -/
def landed (s : State) : State :=
  let u := s.takeAnswer.logWhen (!s.busAnswer.ok) .busTransferFailure
  let u := u.setBuf (landedBuf s.dev.dma s.busAnswer s.draws s.dev.buf)
  (u.setIrq (irqRaised s.dev.irq)).emit (raiseEvent s.dev.irq)

/-- A transfer to the device stays inside the buffer; one from the device writes none of it. -/
def LandFits (d : DmaConfig) : Prop :=
  d.cmd = Config.cmdToDevice → bufOffset d.dst + d.len.toNat ≤ Config.areaSize

theorem LandFits.of_fits {d : DmaConfig} {a : Word} (h : deviceSide d = some a) (hf : TransferFits a d.len) :
    LandFits d := by
  intro hc
  rcases deviceSide_eq_some h with ⟨-, rfl⟩ | ⟨hne, -⟩
  · exact hf.2
  · exact absurd hc hne

theorem landBuffer_of_fits {s : State} (h : LandFits s.dev.dma) (answer : BusAnswer) (n : Nat) :
    landBuffer answer n s = .next (s.setBuf (landedBuf s.dev.dma answer n s.dev.buf)) := by
  by_cases hc : s.dev.dma.cmd = Config.cmdToDevice
  · have := h hc
    simp [landBuffer, landedBuf, hc, bufWrite, overruns_eq_false this, Nat.not_lt.mpr this]
  · rw [landBuffer, if_neg hc, landedBuf, if_neg hc]; rfl

/-- The answer's part of the land phase, for a transfer that fits, where interrupts are live (R213, R214, R218). -/
theorem landAnswer_of_fits {s : State} (h : LandFits s.dev.dma) (hl : IrqLive s) :
    landAnswer s = .next (landed s) := by
  simp only [landAnswer]
  rw [landBuffer_of_fits (by simpa using h), andThen_next]
  show raiseIrq 0 _ = _
  rw [raiseIrq_of_live (by simpa [IrqLive] using hl)]
  simp [landed]

/-- The answer's part of the land phase, when it answers a next state. -/
theorem landAnswer_eq_next {s t : State} (h : landAnswer s = .next t) :
    LandFits s.dev.dma ∧ IrqLive s ∧ t = landed s := by
  have hfits : LandFits s.dev.dma := by
    intro hc
    by_contra ho
    simp [landAnswer, landBuffer, hc, overruns_eq_true (Nat.lt_of_not_le ho), raiseFault] at h
  have hlive : IrqLive s := by
    simp only [landAnswer] at h
    rw [landBuffer_of_fits (by simpa using hfits), andThen_next] at h
    simpa [IrqLive] using (raiseIrq_eq_next h).1
  rw [landAnswer_of_fits hfits hlive] at h
  cases h
  exact ⟨hfits, hlive, rfl⟩

theorem landAnswer_ne_refused (s : State) (r : Refusal) : landAnswer s ≠ .refused r := by
  by_cases hf : LandFits s.dev.dma
  · simp only [landAnswer]
    rw [landBuffer_of_fits (by simpa using hf), andThen_next]
    show raiseIrq 0 _ ≠ _
    rw [raiseIrq_zero]
    split <;> simp
  · have : ∃ hc : s.dev.dma.cmd = Config.cmdToDevice,
        Config.areaSize < bufOffset s.dev.dma.dst + s.dev.dma.len.toNat := by
      simpa [LandFits] using hf
    obtain ⟨hc, ho⟩ := this
    simp [landAnswer, landBuffer, hc, overruns_eq_true ho, raiseFault]

/-- A call that returns is landed. -/
theorem land_of_returns {s : State} (h : s.busReturns = true) : land s = landAnswer s := by
  simp [land, h]

/-- A call that never returns leaves no step (R27, R311). -/
theorem land_of_hang {s : State} (h : s.busReturns = false) : land s = .refused .busNeverReturns := by
  simp [land, h]

/-- The land phase of a transfer that fits, its call answered, where interrupts are live. -/
theorem land_of_fits {s : State} (h : LandFits s.dev.dma) (hl : IrqLive s) (hb : s.busReturns = true) :
    land s = .next (landed s) := by
  rw [land_of_returns hb, landAnswer_of_fits h hl]

/-- A land phase that answers a next state. -/
theorem land_eq_next {s t : State} (h : land s = .next t) :
    LandFits s.dev.dma ∧ IrqLive s ∧ s.busReturns = true ∧ t = landed s := by
  cases hb : s.busReturns with
  | false => simp [land_of_hang hb] at h
  | true =>
    rw [land_of_returns hb] at h
    obtain ⟨hf, hl, ht⟩ := landAnswer_eq_next h
    exact ⟨hf, hl, rfl, ht⟩

/-- The faults of a land phase: none where the transfer fits and interrupts are live. -/
theorem land_eq_fault {s : State} {f : Fault} (h : land s = .fault f) :
    ¬ (LandFits s.dev.dma ∧ IrqLive s) := by
  rintro ⟨hf, hl⟩
  cases hb : s.busReturns with
  | false => simp [land_of_hang hb] at h
  | true => simp [land_of_fits hf hl hb] at h

/-- The only refusal of a land phase is the call that never returns. -/
theorem land_eq_refused {s : State} {r : Refusal} (h : land s = .refused r) :
    r = .busNeverReturns ∧ s.busReturns = false := by
  cases hb : s.busReturns with
  | false => rw [land_of_hang hb] at h; cases h; exact ⟨rfl, rfl⟩
  | true => exact absurd (land_of_returns hb ▸ h) (landAnswer_ne_refused s r)

/-! ### What the two phases write -/

@[simp] theorem issued_cfg (s : State) (a : Word) : (issued s a).cfg = s.cfg := by simp [issued]
@[simp] theorem issued_life (s : State) (a : Word) : (issued s a).life = s.life := by simp [issued]
@[simp] theorem issued_dev (s : State) (a : Word) : (issued s a).dev = s.dev := by simp [issued]
@[simp] theorem issued_reply (s : State) (a : Word) : (issued s a).reply = s.reply := by simp [issued]
@[simp] theorem issued_inbox (s : State) (a : Word) : (issued s a).inbox = s.inbox := by simp [issued]
@[simp] theorem issued_env (s : State) (a : Word) : (issued s a).env = s.env := by simp [issued]
@[simp] theorem issued_busReturns (s : State) (a : Word) : (issued s a).busReturns = s.busReturns := by
  simp [State.busReturns]

/-- What the issue phase of a transfer emits. -/
theorem issued_trace (s : State) (a : Word) :
    (issued s a).trace = s.trace ++
      (if maskedAddr (busSide s.dev.dma) s.dev.dma.mask != busSide s.dev.dma then
        logEvents s.draws .addressMasked else []) ++ [busEvent s.dev.dma (bufOffset a) s.dev.buf] := by
  simp [issued]

@[simp] theorem landed_cfg (s : State) : (landed s).cfg = s.cfg := by simp [landed]
@[simp] theorem landed_life (s : State) : (landed s).life = s.life := by simp [landed]
@[simp] theorem landed_reply (s : State) : (landed s).reply = s.reply := by simp [landed]
@[simp] theorem landed_inbox (s : State) : (landed s).inbox = s.inbox := by simp [landed]
@[simp] theorem landed_env (s : State) : (landed s).env = s.env.tail := by simp [landed]

/-- The land phase writes the buffer and the interrupt state, and no other field of the Device. -/
@[simp] theorem landed_dev (s : State) :
    (landed s).dev =
      { s.dev with buf := landedBuf s.dev.dma s.busAnswer s.draws s.dev.buf, irq := irqRaised s.dev.irq } := by
  simp [landed, State.setBuf, State.setIrq]

/-- What the land phase emits. -/
theorem landed_trace (s : State) :
    (landed s).trace = s.trace ++ (if s.busAnswer.ok then [] else logEvents (s.draws + 1) .busTransferFailure) ++
      [raiseEvent s.dev.irq] := by
  cases h : s.busAnswer.ok <;> simp [landed, h]

/-- The land phase keeps the buffer's canonical form. -/
theorem wf_landedBuf {d : DmaConfig} (hf : LandFits d) (answer : BusAnswer) (n : Nat) {buf : Memory}
    (h : buf.wf = true) : (landedBuf d answer n buf).wf = true := by
  unfold landedBuf
  split
  · exact Memory.wf_writeBytes h (by simpa using hf (by assumption))
  · exact h

/-! ### Both phases in one step -/

theorem execute_of_no_command {s : State} (h : deviceSide s.dev.dma = none) : execute s = .next s := by
  simp [execute, issue_of_no_command h]

theorem execute_of_out_of_window {s : State} {a : Word} (h : deviceSide s.dev.dma = some a)
    (hw : inWindow a = false) : execute s = .next (s.logPoint .transferOutOfBounds) := by
  simp [execute, issue_of_out_of_window h hw]

theorem execute_of_overrun {s : State} {a : Word} (h : deviceSide s.dev.dma = some a)
    (hw : inWindow a = true) (ho : Config.areaSize < bufOffset a + s.dev.dma.len.toNat) :
    execute s = .fault .bufferOverrun := by
  simp [execute, issue_of_overrun h hw ho, raiseFault]

theorem execute_of_fits {s : State} {a : Word} (h : deviceSide s.dev.dma = some a)
    (hf : TransferFits a s.dev.dma.len) (hl : IrqLive s) (hb : s.busReturns = true) :
    execute s = .next (landed (issued s a)) := by
  rw [execute, issue_of_fits h hf]
  exact land_of_fits (by simpa [issued] using LandFits.of_fits h hf) (by simpa [issued, IrqLive] using hl)
    (by simpa using hb)

/-- A transfer whose call never returns has no step (R27, R311). -/
theorem execute_of_hang {s : State} {a : Word} (h : deviceSide s.dev.dma = some a)
    (hf : TransferFits a s.dev.dma.len) (hb : s.busReturns = false) :
    execute s = .refused .busNeverReturns := by
  rw [execute, issue_of_fits h hf]
  exact land_of_hang (by simpa using hb)

/-- What `execute` can do when it answers a next state (R212): nothing, drop an address outside the window, or
make the transfer. -/
theorem execute_eq_next {s t : State} (h : execute s = .next t) :
    (deviceSide s.dev.dma = none ∧ t = s) ∨
      (∃ a, deviceSide s.dev.dma = some a ∧ inWindow a = false ∧ t = s.logPoint .transferOutOfBounds) ∨
        ∃ a, deviceSide s.dev.dma = some a ∧ TransferFits a s.dev.dma.len ∧ IrqLive s ∧ s.busReturns = true ∧
          t = landed (issued s a) := by
  unfold execute at h
  split at h
  · rename_i u hu
    cases h
    rcases issue_eq_noCall hu with h | h
    · exact .inl h
    · exact .inr (.inl h)
  · cases h
  · rename_i u hu
    obtain ⟨a, ha, hf, rfl⟩ := issue_eq_call hu
    obtain ⟨-, hl, hb, rfl⟩ := land_eq_next h
    exact .inr (.inr ⟨a, ha, hf, by simpa [issued, IrqLive] using hl, by simpa using hb, rfl⟩)

/-- The only refusal of `execute` is a transfer whose call never returns. -/
theorem execute_eq_refused {s : State} {r : Refusal} (h : execute s = .refused r) :
    r = .busNeverReturns ∧ s.busReturns = false ∧
      ∃ a, deviceSide s.dev.dma = some a ∧ TransferFits a s.dev.dma.len := by
  unfold execute at h
  split at h
  · cases h
  · cases h
  · rename_i u hu
    obtain ⟨a, ha, hf, rfl⟩ := issue_eq_call hu
    obtain ⟨hr, hb⟩ := land_eq_refused h
    exact ⟨hr, by simpa using hb, a, ha, hf⟩

/-! ### A transfer does not look at the turns offered -/

theorem landed_setInbox (s : State) (q : List Turn) : landed (s.setInbox q) = (landed s).setInbox q := by
  have h : (s.setInbox q).busAnswer = s.busAnswer := rfl
  simp only [landed, h]
  cases s.busAnswer.ok <;> rfl

theorem issued_setInbox (s : State) (a : Word) (q : List Turn) :
    issued (s.setInbox q) a = (issued s a).setInbox q := by
  simp only [issued, State.setInbox_dev]
  cases maskedAddr (busSide s.dev.dma) s.dev.dma.mask != busSide s.dev.dma <;> rfl

/-! ### The agent -/

/-- Where accesses are not serialized a turn of the agent is its next phase. -/
theorem agentTurn_of_ready {s : State} (h : Ready s) (hs : s.cfg.serialized = false) :
    agentTurn s = agentPhase s := by
  simp [agentTurn, h.1, h.2, hs]

theorem agentTurn_of_started {s : State} (h : Ready s) (hs : s.cfg.serialized = false)
    (hi : s.dev.inflight = some .started) : agentTurn s = agentIssue s := by
  simp [agentTurn_of_ready h hs, agentPhase, hi]

theorem agentTurn_of_awaitBus {s : State} (h : Ready s) (hs : s.cfg.serialized = false)
    (hi : s.dev.inflight = some .awaitBus) : agentTurn s = agentLand s := by
  simp [agentTurn_of_ready h hs, agentPhase, hi]

theorem agentTurn_of_raised {s : State} (h : Ready s) (hs : s.cfg.serialized = false)
    (hi : s.dev.inflight = some .raised) :
    agentTurn s = .next (((s.setStatus .idle).setInflight none).setReply (some .ack)) := by
  simp [agentTurn_of_ready h hs, agentPhase, hi, finish, returnAck]

/-- With nothing in flight the agent has nothing to do. -/
theorem agentTurn_of_none {s : State} (h : Ready s) (hi : s.dev.inflight = none) : agentTurn s = .next s := by
  simp [agentTurn, agentPhase, h.1, h.2, hi]

/-- What a turn of the DMA agent can do when it answers a next state (R330). -/
theorem agentTurn_eq_next {s t : State} (h : agentTurn s = .next t) :
    t = s ∨
      (Ready s ∧ s.cfg.serialized = false ∧
        ((s.dev.inflight = some .started ∧ ∃ u, issue s = .noCall u ∧ t = u.setInflight (some .raised)) ∨
          (s.dev.inflight = some .started ∧ ∃ u, issue s = .call u ∧ t = u.setInflight (some .awaitBus)) ∨
          (s.dev.inflight = some .awaitBus ∧ LandFits s.dev.dma ∧ IrqLive s ∧ s.busReturns = true ∧
            t = (landed s).setInflight (some .raised)) ∨
          (s.dev.inflight = some .raised ∧
            t = ((s.setStatus .idle).setInflight none).setReply (some .ack)))) := by
  unfold agentTurn at h
  split at h
  · cases h; exact .inl rfl
  · cases h; exact .inl rfl
  · rename_i hlife
    split at h
    · cases h
    · rename_i hfault
      split at h
      · cases h; exact .inl rfl
      · rename_i hser
        unfold agentPhase at h
        split at h
        · cases h; exact .inl rfl
        · rename_i hin
          refine .inr ⟨⟨hlife, hfault⟩, by simpa using hser, ?_⟩
          unfold agentIssue at h
          split at h
          · rename_i u hu; cases h; exact .inl ⟨hin, u, hu, rfl⟩
          · cases h
          · rename_i u hu; cases h; exact .inr (.inl ⟨hin, u, hu, rfl⟩)
        · rename_i hin
          refine .inr ⟨⟨hlife, hfault⟩, by simpa using hser, .inr (.inr (.inl ?_))⟩
          obtain ⟨u, hu, ht⟩ := andThen_eq_next h
          obtain ⟨hf, hl, hb, rfl⟩ := land_eq_next hu
          cases ht
          exact ⟨hin, hf, hl, hb, rfl⟩
        · rename_i hin
          refine .inr ⟨⟨hlife, hfault⟩, by simpa using hser, .inr (.inr (.inr ⟨hin, ?_⟩))⟩
          exact (returnAck_eq_next.mp h).symm

end Sys2Proof.Machine
end

