-- ==== Sys2Proof/Laws/Exec.lean ====
section
/-! SUPPORT. What each meaning can do: how it answers when the Device takes the transaction, and what holds when
it answers a next state. -/

namespace Sys2Proof.Machine

/-! ### Register-window accesses without an engine behind them -/

theorem readReg_of_ready {s : State} {size : Nat} (h : Ready s) (hs : sizeOk size = true) (i : Fin 4) :
    readReg i size s = .next (s.setReply (some (.data size s.dev.reg[i]))) := by
  simp [readReg, whenSize_of_ready h hs, returnData]

theorem readReg_eq_next {s t : State} {size : Nat} {i : Fin 4} (h : readReg i size s = .next t) :
    Ready s ∧ sizeOk size = true ∧ t = s.setReply (some (.data size s.dev.reg[i])) := by
  obtain ⟨hr, hs, hk⟩ := whenSize_eq_next h
  exact ⟨hr, hs, (returnData_eq_next.mp hk).symm⟩

theorem writeReg_of_ready {s : State} {size : Nat} (h : Ready s) (hs : sizeOk size = true) (i : Fin 4)
    (v : Word) : writeReg i v size s = .next ((s.setReg i v).setReply (some .ack)) := by
  simp [writeReg, whenSize_of_ready h hs, returnAck]

theorem writeReg_eq_next {s t : State} {size : Nat} {i : Fin 4} {v : Word} (h : writeReg i v size s = .next t) :
    Ready s ∧ sizeOk size = true ∧ t = (s.setReg i v).setReply (some .ack) := by
  obtain ⟨hr, hs, hk⟩ := whenSize_eq_next h
  exact ⟨hr, hs, (returnAck_eq_next.mp hk).symm⟩

theorem readSentinel_of_ready {s : State} {size : Nat} (h : Ready s) (hs : sizeOk size = true) :
    readSentinel size s = .next (s.setReply (some (.data size Config.allOnes))) := by
  simp [readSentinel, whenSize_of_ready h hs, returnData]

theorem readSentinel_eq_next {s t : State} {size : Nat} (h : readSentinel size s = .next t) :
    Ready s ∧ sizeOk size = true ∧ t = s.setReply (some (.data size Config.allOnes)) := by
  obtain ⟨hr, hs, hk⟩ := whenSize_eq_next h
  exact ⟨hr, hs, (returnData_eq_next.mp hk).symm⟩

theorem readNowhere_of_ready {s : State} {size : Nat} (h : Ready s) (hs : sizeOk size = true) :
    readNowhere size s =
      .next ((s.logPoint .invalidRegisterAccess).setReply (some (.data size Config.allOnes))) := by
  simp [readNowhere, whenSize_of_ready h hs, returnData]

theorem readNowhere_eq_next {s t : State} {size : Nat} (h : readNowhere size s = .next t) :
    Ready s ∧ sizeOk size = true ∧
      t = (s.logPoint .invalidRegisterAccess).setReply (some (.data size Config.allOnes)) := by
  obtain ⟨hr, hs, hk⟩ := whenSize_eq_next h
  exact ⟨hr, hs, (returnData_eq_next.mp hk).symm⟩

theorem writeNowhere_of_ready {s : State} {size : Nat} (h : Ready s) (hs : sizeOk size = true) :
    writeNowhere size s = .next ((s.logPoint .invalidRegisterAccess).setReply (some .ack)) := by
  simp [writeNowhere, whenSize_of_ready h hs, returnAck]

theorem writeNowhere_eq_next {s t : State} {size : Nat} (h : writeNowhere size s = .next t) :
    Ready s ∧ sizeOk size = true ∧ t = (s.logPoint .invalidRegisterAccess).setReply (some .ack) := by
  obtain ⟨hr, hs, hk⟩ := whenSize_eq_next h
  exact ⟨hr, hs, (returnAck_eq_next.mp hk).symm⟩

/-! ### The diagnostic interrupt writes -/

/-- The state after vector 0 was lowered. -/
def lowered (s : State) : State :=
  { s.setIrq (irqLowered s.dev.irq) with trace := s.trace ++ lowerEvents s.dev.irq }

@[simp] theorem lowered_cfg (s : State) : (lowered s).cfg = s.cfg := rfl
@[simp] theorem lowered_life (s : State) : (lowered s).life = s.life := rfl
@[simp] theorem lowered_trace (s : State) : (lowered s).trace = s.trace ++ lowerEvents s.dev.irq := rfl
@[simp] theorem lowered_reply (s : State) : (lowered s).reply = s.reply := rfl
@[simp] theorem lowered_inbox (s : State) : (lowered s).inbox = s.inbox := rfl
@[simp] theorem lowered_env (s : State) : (lowered s).env = s.env := rfl
@[simp] theorem lowered_draws (s : State) : (lowered s).draws = s.draws := rfl
@[simp] theorem lowered_dev (s : State) : (lowered s).dev = { s.dev with irq := irqLowered s.dev.irq } := rfl

theorem execWrIrqRaise_eq_next {s t : State} {size : Nat} {v : Word}
    (h : execWrIrqRaise v size s = .next t) :
    Ready s ∧ sizeOk size = true ∧ IrqLive s ∧
      t = ((s.setIrq (irqRaised s.dev.irq)).emit (raiseEvent s.dev.irq)).setReply (some .ack) := by
  obtain ⟨hr, hs, hk⟩ := whenSize_eq_next h
  obtain ⟨u, hu, ht⟩ := andThen_eq_next hk
  obtain ⟨hl, rfl⟩ := raiseIrq_eq_next hu
  exact ⟨hr, hs, hl, (returnAck_eq_next.mp ht).symm⟩

theorem execWrIrqLower_eq_next {s t : State} {size : Nat} {v : Word}
    (h : execWrIrqLower v size s = .next t) :
    Ready s ∧ sizeOk size = true ∧ IrqLive s ∧ t = (lowered s).setReply (some .ack) := by
  obtain ⟨hr, hs, hk⟩ := whenSize_eq_next h
  obtain ⟨u, hu, ht⟩ := andThen_eq_next hk
  obtain ⟨hl, rfl⟩ := lowerIrq_eq_next hu
  exact ⟨hr, hs, hl, (returnAck_eq_next.mp ht).symm⟩

/-! ### The configuration writes -/

/-- A configuration write (R204): stored when Idle, otherwise a log point. -/
theorem configure_eq_next {s t : State} {size : Nat} {f : DmaConfig → DmaConfig}
    (h : configure f size s = .next t) :
    Ready s ∧ sizeOk size = true ∧
      ((s.dev.status = .idle ∧ t = (s.setDma (f s.dev.dma)).setReply (some .ack)) ∨
        (s.dev.status ≠ .idle ∧ t = (s.logPoint .configWhileBusy).setReply (some .ack))) := by
  obtain ⟨hr, hs, hk⟩ := whenSize_eq_next h
  refine ⟨hr, hs, ?_⟩
  split at hk
  · exact .inl ⟨by assumption, (returnAck_eq_next.mp hk).symm⟩
  · exact .inr ⟨by assumption, (returnAck_eq_next.mp hk).symm⟩

theorem execWrDmaSrc_eq_next {s t : State} {size : Nat} {v : Word} (h : execWrDmaSrc v size s = .next t) :
    Ready s ∧ sizeOk size = true ∧
      ((s.dev.status = .idle ∧ t = (s.setDma { s.dev.dma with src := v }).setReply (some .ack)) ∨
        (s.dev.status ≠ .idle ∧ t = (s.logPoint .configWhileBusy).setReply (some .ack))) :=
  configure_eq_next (f := fun d => { d with src := v }) h

theorem execWrDmaDst_eq_next {s t : State} {size : Nat} {v : Word} (h : execWrDmaDst v size s = .next t) :
    Ready s ∧ sizeOk size = true ∧
      ((s.dev.status = .idle ∧ t = (s.setDma { s.dev.dma with dst := v }).setReply (some .ack)) ∨
        (s.dev.status ≠ .idle ∧ t = (s.logPoint .configWhileBusy).setReply (some .ack))) :=
  configure_eq_next (f := fun d => { d with dst := v }) h

theorem execWrDmaLen_eq_next {s t : State} {size : Nat} {v : Word} (h : execWrDmaLen v size s = .next t) :
    Ready s ∧ sizeOk size = true ∧
      ((s.dev.status = .idle ∧ t = (s.setDma { s.dev.dma with len := v }).setReply (some .ack)) ∨
        (s.dev.status ≠ .idle ∧ t = (s.logPoint .configWhileBusy).setReply (some .ack))) :=
  configure_eq_next (f := fun d => { d with len := v }) h

theorem execWrDmaCmd_eq_next {s t : State} {size : Nat} {v : Word} (h : execWrDmaCmd v size s = .next t) :
    Ready s ∧ sizeOk size = true ∧
      ((s.dev.status = .idle ∧ t = (s.setDma { s.dev.dma with cmd := v }).setReply (some .ack)) ∨
        (s.dev.status ≠ .idle ∧ t = (s.logPoint .configWhileBusy).setReply (some .ack))) :=
  configure_eq_next (f := fun d => { d with cmd := v }) h

/-! ### The doorbell -/

theorem casStatus_idle {st : DmaStatus} :
    casStatus st .idle .executing = if st = .idle then (true, .executing) else (false, st) := rfl

/-- What a doorbell can do when it answers a next state: be dropped (R210), run the whole transfer, or be
accepted (R330). -/
theorem execWrDoorbell_eq_next {s t : State} {size : Nat} {v : Word} (h : execWrDoorbell v size s = .next t) :
    Ready s ∧ sizeOk size = true ∧
      ((s.dev.status ≠ .idle ∧ t = s.setReply (some .ack)) ∨
        (s.dev.status = .idle ∧ s.cfg.serialized = true ∧
          ∃ u, execute (s.setStatus .executing) = .next u ∧ t = (u.setStatus .idle).setReply (some .ack)) ∨
        (s.dev.status = .idle ∧ s.cfg.serialized = false ∧
          t = ((s.setStatus .executing).setInflight (some .started)).setReply none)) := by
  obtain ⟨hr, hs, hk⟩ := whenSize_eq_next h
  refine ⟨hr, hs, ?_⟩
  by_cases hi : s.dev.status = .idle
  · cases hc : s.cfg.serialized
    · simp only [hc, ringAccept, casStatus_idle, hi, if_true, Bool.false_eq_true, if_false,
        Host.Outcome.next.injEq] at hk
      exact .inr (.inr ⟨hi, rfl, hk.symm⟩)
    · simp only [hc, ringSerialized, casStatus_idle, hi, if_true] at hk
      obtain ⟨u, hu, ht⟩ := andThen_eq_next hk
      exact .inr (.inl ⟨hi, rfl, u, hu, (returnAck_eq_next.mp ht).symm⟩)
  · left
    refine ⟨hi, ?_⟩
    cases hc : s.cfg.serialized <;>
      simp only [hc, ringAccept, ringSerialized, casStatus_idle, hi, if_true, Bool.false_eq_true, if_false] at hk
    · exact (returnAck_eq_next.mp hk).symm
    · exact (returnAck_eq_next.mp hk).symm

/-! ### The hooks -/

/-- The state `dma_reset` leaves (R230), field by field. -/
theorem dmaReset_eq (s : State) :
    dmaReset s =
      s.setDev { s.dev with status := .idle, dma := DmaConfig.zeroed s.dev.dma.mask, buf := [] } := rfl

/-- The State `init` makes: a Device at its initial values (R350). -/
theorem initDevice_eq (s : State) :
    initDevice s = ((s.setDev (Device.initial s.cfg)).setLife .present).emit .queryMsi := rfl

theorem execInit_eq_next {s t : State} (h : execInit s = .next t) :
    s.life = .absent ∧ t = (((s.setDev (Device.initial s.cfg)).setLife .present).emit .queryMsi).setReply
      (some .ack) := by
  unfold execInit at h
  split at h
  · rename_i hl
    exact ⟨hl, (returnAck_eq_next.mp h).symm⟩
  · obtain ⟨-, hk⟩ := whenAlive_eq_next h
    simp only [initAgain, raiseFault] at hk
    split at hk <;> cases hk
  · obtain ⟨-, hk⟩ := whenAlive_eq_next h
    simp only [initAgain, raiseFault] at hk
    split at hk <;> cases hk

theorem whenHookAllowed_of_ready {s : State} (h : Ready s) (ho : s.dev.status ≠ .off)
    (hi : s.dev.inflight = none) (k : State → Result) : whenHookAllowed s k = k s := by
  simp [whenHookAllowed, whenAlive_of_ready h, ho, hi]

theorem whenHookAllowed_eq_next {s t : State} {k : State → Result} (h : whenHookAllowed s k = .next t) :
    Ready s ∧ s.dev.status ≠ .off ∧ s.dev.inflight = none ∧ k s = .next t := by
  obtain ⟨hr, hk⟩ := whenAlive_eq_next h
  split at hk
  · cases hk
  · rename_i ho
    split at hk
    · cases hk
    · rename_i hi
      exact ⟨hr, ho, by simpa using hi, hk⟩

theorem execReset_eq_next {s t : State} (h : execReset s = .next t) :
    Ready s ∧ s.dev.status ≠ .off ∧ s.dev.inflight = none ∧ IrqLive s ∧
      t = (lowered (dmaReset s.clearRegs)).setReply (some .ack) := by
  obtain ⟨hr, ho, hi, hk⟩ := whenHookAllowed_eq_next h
  obtain ⟨u, hu, ht⟩ := andThen_eq_next hk
  obtain ⟨hl, rfl⟩ := lowerIrq_eq_next hu
  exact ⟨hr, ho, hi, hl, (returnAck_eq_next.mp ht).symm⟩

theorem execFinalize_eq_next {s t : State} (h : execFinalize s = .next t) :
    Ready s ∧ s.dev.status ≠ .off ∧ s.dev.inflight = none ∧ IrqLive s ∧
      ∃ u, (u = if isMessage s.dev.irq then ((lowered s).emit .releaseVectors).setReleased true else lowered s) ∧
        t = (dmaFinalize u).setReply (some .ack) := by
  obtain ⟨hr, ho, hi, hk⟩ := whenHookAllowed_eq_next h
  obtain ⟨u, hu, ht⟩ := andThen_eq_next hk
  obtain ⟨w, hw, hwu⟩ := andThen_eq_next hu
  obtain ⟨hl, rfl⟩ := lowerIrq_eq_next hw
  refine ⟨hr, ho, hi, hl, u, ?_, (returnAck_eq_next.mp ht).symm⟩
  cases hm : isMessage s.dev.irq <;>
    simp [hm] at hwu <;> simp [← hwu, lowered]

theorem teardown_eq_next {s t : State} (h : teardown s = .next t) : Ready s ∧ t = s.setLife .tornDown := by
  obtain ⟨hr, hk⟩ := whenAlive_eq_next h
  cases hk
  exact ⟨hr, rfl⟩

/-! ### Every transaction at once -/

/-- What register-window access or hook `i` leaves in `t` when it answers a next state from `s`. -/
def Leaves (s t : State) : Instr → Prop
  | .rdReg0 z => t = s.setReply (some (.data z s.dev.reg[(0 : Fin 4)]))
  | .rdReg1 z => t = s.setReply (some (.data z s.dev.reg[(1 : Fin 4)]))
  | .rdReg2 z => t = s.setReply (some (.data z s.dev.reg[(2 : Fin 4)]))
  | .rdReg3 z => t = s.setReply (some (.data z s.dev.reg[(3 : Fin 4)]))
  | .rdWo20 z | .rdWo28 z | .rdWo30 z | .rdWo38 z | .rdWo40 z | .rdWo48 z | .rdWo50 z =>
      t = s.setReply (some (.data z Config.allOnes))
  | .rdUnmapped _ z | .rdInvalid _ z =>
      t = (s.logPoint .invalidRegisterAccess).setReply (some (.data z Config.allOnes))
  | .wrReg0 v _ => t = (s.setReg 0 v).setReply (some .ack)
  | .wrReg1 v _ => t = (s.setReg 1 v).setReply (some .ack)
  | .wrReg2 v _ => t = (s.setReg 2 v).setReply (some .ack)
  | .wrReg3 v _ => t = (s.setReg 3 v).setReply (some .ack)
  | .wrIrqRaise _ _ =>
      IrqLive s ∧ t = ((s.setIrq (irqRaised s.dev.irq)).emit (raiseEvent s.dev.irq)).setReply (some .ack)
  | .wrIrqLower _ _ => IrqLive s ∧ t = (lowered s).setReply (some .ack)
  | .wrDmaSrc v _ =>
      (s.dev.status = .idle ∧ t = (s.setDma { s.dev.dma with src := v }).setReply (some .ack)) ∨
        (s.dev.status ≠ .idle ∧ t = (s.logPoint .configWhileBusy).setReply (some .ack))
  | .wrDmaDst v _ =>
      (s.dev.status = .idle ∧ t = (s.setDma { s.dev.dma with dst := v }).setReply (some .ack)) ∨
        (s.dev.status ≠ .idle ∧ t = (s.logPoint .configWhileBusy).setReply (some .ack))
  | .wrDmaLen v _ =>
      (s.dev.status = .idle ∧ t = (s.setDma { s.dev.dma with len := v }).setReply (some .ack)) ∨
        (s.dev.status ≠ .idle ∧ t = (s.logPoint .configWhileBusy).setReply (some .ack))
  | .wrDmaCmd v _ =>
      (s.dev.status = .idle ∧ t = (s.setDma { s.dev.dma with cmd := v }).setReply (some .ack)) ∨
        (s.dev.status ≠ .idle ∧ t = (s.logPoint .configWhileBusy).setReply (some .ack))
  | .wrDoorbell _ _ =>
      (s.dev.status ≠ .idle ∧ t = s.setReply (some .ack)) ∨
        (s.dev.status = .idle ∧ s.cfg.serialized = true ∧
          ∃ u, execute (s.setStatus .executing) = .next u ∧ t = (u.setStatus .idle).setReply (some .ack)) ∨
        (s.dev.status = .idle ∧ s.cfg.serialized = false ∧
          t = ((s.setStatus .executing).setInflight (some .started)).setReply none)
  | .wrUnmapped _ _ _ | .wrInvalid _ _ _ => t = (s.logPoint .invalidRegisterAccess).setReply (some .ack)
  | .init =>
      t = (((s.setDev (Device.initial s.cfg)).setLife .present).emit .queryMsi).setReply (some .ack)
  | .reset => IrqLive s ∧ t = (lowered (dmaReset s.clearRegs)).setReply (some .ack)
  | .finalize =>
      IrqLive s ∧ ∃ u,
        (u = if isMessage s.dev.irq then ((lowered s).emit .releaseVectors).setReleased true else lowered s) ∧
          t = (dmaFinalize u).setReply (some .ack)

/-- When a transaction is taken: `init` where there is no Device, any other by a Device that is ready, an access
at a legal size, `reset` and `finalize` neither after `finalize` nor during a transfer. -/
def Taken (s : State) (i : Instr) : Prop :=
  match i with
  | .init => s.life = .absent
  | .reset | .finalize => Ready s ∧ s.dev.status ≠ .off ∧ s.dev.inflight = none
  | i => Ready s ∧ ∀ z, accessSizeOf i = some z → sizeOk z = true

/-- What a transaction can do when it answers a next state, said once for all of them. -/
theorem exec_eq_next {i : Instr} {s t : State} (h : exec i s = .next t) : Taken s i ∧ Leaves s t i := by
  cases i with
  | rdReg0 z | rdReg1 z | rdReg2 z | rdReg3 z =>
    obtain ⟨hr, hs, ht⟩ := readReg_eq_next h
    exact ⟨⟨hr, fun _ h => by cases h; exact hs⟩, ht⟩
  | rdWo20 z | rdWo28 z | rdWo30 z | rdWo38 z | rdWo40 z | rdWo48 z | rdWo50 z =>
    obtain ⟨hr, hs, ht⟩ := readSentinel_eq_next h
    exact ⟨⟨hr, fun _ h => by cases h; exact hs⟩, ht⟩
  | rdUnmapped o z | rdInvalid o z =>
    obtain ⟨hr, hs, ht⟩ := readNowhere_eq_next h
    exact ⟨⟨hr, fun _ h => by cases h; exact hs⟩, ht⟩
  | wrReg0 v z | wrReg1 v z | wrReg2 v z | wrReg3 v z =>
    obtain ⟨hr, hs, ht⟩ := writeReg_eq_next h
    exact ⟨⟨hr, fun _ h => by cases h; exact hs⟩, ht⟩
  | wrIrqRaise v z =>
    obtain ⟨hr, hs, ht⟩ := execWrIrqRaise_eq_next (v := v) h
    exact ⟨⟨hr, fun _ h => by cases h; exact hs⟩, ht⟩
  | wrIrqLower v z =>
    obtain ⟨hr, hs, ht⟩ := execWrIrqLower_eq_next (v := v) h
    exact ⟨⟨hr, fun _ h => by cases h; exact hs⟩, ht⟩
  | wrDmaSrc v z =>
    obtain ⟨hr, hs, ht⟩ := execWrDmaSrc_eq_next h
    exact ⟨⟨hr, fun _ h => by cases h; exact hs⟩, ht⟩
  | wrDmaDst v z =>
    obtain ⟨hr, hs, ht⟩ := execWrDmaDst_eq_next h
    exact ⟨⟨hr, fun _ h => by cases h; exact hs⟩, ht⟩
  | wrDmaLen v z =>
    obtain ⟨hr, hs, ht⟩ := execWrDmaLen_eq_next h
    exact ⟨⟨hr, fun _ h => by cases h; exact hs⟩, ht⟩
  | wrDmaCmd v z =>
    obtain ⟨hr, hs, ht⟩ := execWrDmaCmd_eq_next h
    exact ⟨⟨hr, fun _ h => by cases h; exact hs⟩, ht⟩
  | wrDoorbell v z =>
    obtain ⟨hr, hs, ht⟩ := execWrDoorbell_eq_next (v := v) h
    exact ⟨⟨hr, fun _ h => by cases h; exact hs⟩, ht⟩
  | wrUnmapped o v z | wrInvalid o v z =>
    obtain ⟨hr, hs, ht⟩ := writeNowhere_eq_next h
    exact ⟨⟨hr, fun _ h => by cases h; exact hs⟩, ht⟩
  | init => exact execInit_eq_next h
  | reset =>
    obtain ⟨hr, ho, hi, ht⟩ := execReset_eq_next h
    exact ⟨⟨hr, ho, hi⟩, ht⟩
  | finalize =>
    obtain ⟨hr, ho, hi, ht⟩ := execFinalize_eq_next h
    exact ⟨⟨hr, ho, hi⟩, ht⟩

end Sys2Proof.Machine
end

