-- ==== Sys2Proof/Laws/PerInstr.lean ====
section
/-! SUPPORT. The per-instruction family RequestRoundTrip: the request a well-formed instruction is offered by
decodes to that instruction, one lemma per constructor. -/

namespace Sys2Proof.Laws

/-- A well-formed instruction's request has an access size the Host may use and decodes to the instruction. -/
def RequestRoundTrip.Statement (i : Instr) : Prop :=
  i.wf = true → requestSizeError (requestOf i) = none ∧ decodeRequest (requestOf i) = i

theorem RequestRoundTrip.rdReg0 (size : Nat) : Statement (.rdReg0 size) :=
  fun h => ⟨if_pos h, rfl⟩

theorem RequestRoundTrip.rdReg1 (size : Nat) : Statement (.rdReg1 size) :=
  fun h => ⟨if_pos h, rfl⟩

theorem RequestRoundTrip.rdReg2 (size : Nat) : Statement (.rdReg2 size) :=
  fun h => ⟨if_pos h, rfl⟩

theorem RequestRoundTrip.rdReg3 (size : Nat) : Statement (.rdReg3 size) :=
  fun h => ⟨if_pos h, rfl⟩

theorem RequestRoundTrip.rdWo20 (size : Nat) : Statement (.rdWo20 size) :=
  fun h => ⟨if_pos h, rfl⟩

theorem RequestRoundTrip.rdWo28 (size : Nat) : Statement (.rdWo28 size) :=
  fun h => ⟨if_pos h, rfl⟩

theorem RequestRoundTrip.rdWo30 (size : Nat) : Statement (.rdWo30 size) :=
  fun h => ⟨if_pos h, rfl⟩

theorem RequestRoundTrip.rdWo38 (size : Nat) : Statement (.rdWo38 size) :=
  fun h => ⟨if_pos h, rfl⟩

theorem RequestRoundTrip.rdWo40 (size : Nat) : Statement (.rdWo40 size) :=
  fun h => ⟨if_pos h, rfl⟩

theorem RequestRoundTrip.rdWo48 (size : Nat) : Statement (.rdWo48 size) :=
  fun h => ⟨if_pos h, rfl⟩

theorem RequestRoundTrip.rdWo50 (size : Nat) : Statement (.rdWo50 size) :=
  fun h => ⟨if_pos h, rfl⟩

theorem RequestRoundTrip.rdUnmapped (offset : Word) (size : Nat) : Statement (.rdUnmapped offset size) := by
  intro h
  simp only [Instr.wf, Bool.and_eq_true, offsetUnmapped_iff] at h
  refine ⟨if_pos h.2, ?_⟩
  show decodeAccess false offset _ size = _
  rw [decodeAccess_in_window h.1.1]
  exact decodeRead_unmapped size h.1.2

theorem RequestRoundTrip.rdInvalid (offset : Word) (size : Nat) : Statement (.rdInvalid offset size) := by
  intro h
  simp only [Instr.wf, Bool.and_eq_true, offsetInvalid_iff] at h
  exact ⟨if_pos h.2, decodeAccess_above_window h.1 false _ size⟩

/-- A mapped write: the request carries the value, which fits the access and is delivered whole. -/
theorem writeRequest_roundTrip {o value : Word} {size : Nat} {i : Instr}
    (h : (sizeOk size && valueFits size value) = true) (hi : decodeAccess true o value size = i) :
    requestSizeError (writeRequest o value size) = none ∧ decodeRequest (writeRequest o value size) = i := by
  rw [Bool.and_eq_true] at h
  refine ⟨if_pos h.1, ?_⟩
  show decodeAccess true o (deliverWrite size value) size = i
  rw [deliverWrite_of_fits h.2, hi]

theorem RequestRoundTrip.wrReg0 (value : Word) (size : Nat) : Statement (.wrReg0 value size) :=
  fun h => writeRequest_roundTrip h rfl

theorem RequestRoundTrip.wrReg1 (value : Word) (size : Nat) : Statement (.wrReg1 value size) :=
  fun h => writeRequest_roundTrip h rfl

theorem RequestRoundTrip.wrReg2 (value : Word) (size : Nat) : Statement (.wrReg2 value size) :=
  fun h => writeRequest_roundTrip h rfl

theorem RequestRoundTrip.wrReg3 (value : Word) (size : Nat) : Statement (.wrReg3 value size) :=
  fun h => writeRequest_roundTrip h rfl

theorem RequestRoundTrip.wrIrqRaise (value : Word) (size : Nat) : Statement (.wrIrqRaise value size) :=
  fun h => writeRequest_roundTrip h rfl

theorem RequestRoundTrip.wrIrqLower (value : Word) (size : Nat) : Statement (.wrIrqLower value size) :=
  fun h => writeRequest_roundTrip h rfl

theorem RequestRoundTrip.wrDmaSrc (value : Word) (size : Nat) : Statement (.wrDmaSrc value size) :=
  fun h => writeRequest_roundTrip h rfl

theorem RequestRoundTrip.wrDmaDst (value : Word) (size : Nat) : Statement (.wrDmaDst value size) :=
  fun h => writeRequest_roundTrip h rfl

theorem RequestRoundTrip.wrDmaLen (value : Word) (size : Nat) : Statement (.wrDmaLen value size) :=
  fun h => writeRequest_roundTrip h rfl

theorem RequestRoundTrip.wrDmaCmd (value : Word) (size : Nat) : Statement (.wrDmaCmd value size) :=
  fun h => writeRequest_roundTrip h rfl

theorem RequestRoundTrip.wrDoorbell (value : Word) (size : Nat) : Statement (.wrDoorbell value size) :=
  fun h => writeRequest_roundTrip h rfl

theorem RequestRoundTrip.wrUnmapped (offset value : Word) (size : Nat) :
    Statement (.wrUnmapped offset value size) := by
  intro h
  simp only [Instr.wf, Bool.and_eq_true (offsetUnmapped offset), offsetUnmapped_iff] at h
  refine writeRequest_roundTrip h.2 ?_
  rw [decodeAccess_in_window h.1.1]
  exact decodeWrite_unmapped value size h.1.2

theorem RequestRoundTrip.wrInvalid (offset value : Word) (size : Nat) :
    Statement (.wrInvalid offset value size) := by
  intro h
  simp only [Instr.wf, Bool.and_eq_true (offsetInvalid offset), offsetInvalid_iff] at h
  exact writeRequest_roundTrip h.2 (decodeAccess_above_window h.1 true value size)

theorem RequestRoundTrip.init : Statement .init := fun _ => ⟨rfl, rfl⟩

theorem RequestRoundTrip.reset : Statement .reset := fun _ => ⟨rfl, rfl⟩

theorem RequestRoundTrip.finalize : Statement .finalize := fun _ => ⟨rfl, rfl⟩

end Sys2Proof.Laws
end

