-- ==== Sys2Proof/Tests/Slice0.lean ====
section
/-! SUPPORT. The model's own tests: well-formedness, decoding of words written out from the spec's encodings, one
step per test with the expected result of 95_test_vectors.md (the vector's id in the comment), and for every
obligation with hypotheses the states and operands that meet them. -/

namespace Sys2Proof.Tests

open Sys2Proof.Machine

/-! ### Well-formedness: an ill-formed term for each check -/

theorem test_wf_size_below_range : (Instr.rdReg0 3).wf = false := by decide

theorem test_wf_size_above_range : (Instr.wrDoorbell 0 9).wf = false := by decide

theorem test_wf_value_too_wide : (Instr.wrReg1 0x100000000 4).wf = false := by decide

theorem test_wf_unmapped_offset_is_mapped : (Instr.rdUnmapped 0x48 8).wf = false := by decide

theorem test_wf_unmapped_offset_out_of_range : (Instr.wrUnmapped 0x51 0 8).wf = false := by decide

theorem test_wf_invalid_offset_in_range : (Instr.rdInvalid 0x50 8).wf = false := by decide

theorem test_wf_at_the_limits :
    (Instr.wrReg1 0xFFFFFFFF 4).wf = true ∧ (Instr.rdUnmapped 0x4F 8).wf = true ∧
      (Instr.wrInvalid 0x51 0xFFFFFFFFFFFFFFFF 8).wf = true ∧ Instr.init.wf = true := by decide

/-! ### Decoding: the word of every row of spec/opcode_table.json

A word of 72 bits is the access key alone: size 8 and, for a write, value 0. -/

theorem test_decode_register_reads :
    decodeTableWord 72 0x00000000000000000 = some (.rdReg0 8) ∧
    decodeTableWord 72 0x00000000000000008 = some (.rdReg1 8) ∧
    decodeTableWord 72 0x00000000000000010 = some (.rdReg2 8) ∧
    decodeTableWord 72 0x00000000000000018 = some (.rdReg3 8) := by decide

theorem test_decode_write_only_reads :
    decodeTableWord 72 0x00000000000000020 = some (.rdWo20 8) ∧
    decodeTableWord 72 0x00000000000000028 = some (.rdWo28 8) ∧
    decodeTableWord 72 0x00000000000000030 = some (.rdWo30 8) ∧
    decodeTableWord 72 0x00000000000000038 = some (.rdWo38 8) ∧
    decodeTableWord 72 0x00000000000000040 = some (.rdWo40 8) ∧
    decodeTableWord 72 0x00000000000000048 = some (.rdWo48 8) ∧
    decodeTableWord 72 0x00000000000000050 = some (.rdWo50 8) := by decide

theorem test_decode_reads_with_no_register :
    decodeTableWord 72 0x0000000000000004C = some (.rdUnmapped 0x4C 8) ∧
    decodeTableWord 72 0x00000000000000051 = some (.rdInvalid 0x51 8) := by decide

theorem test_decode_register_writes :
    decodeTableWord 72 0x10000000000000000 = some (.wrReg0 0 8) ∧
    decodeTableWord 72 0x10000000000000008 = some (.wrReg1 0 8) ∧
    decodeTableWord 72 0x10000000000000010 = some (.wrReg2 0 8) ∧
    decodeTableWord 72 0x10000000000000018 = some (.wrReg3 0 8) := by decide

theorem test_decode_interrupt_writes :
    decodeTableWord 72 0x10000000000000020 = some (.wrIrqRaise 0 8) ∧
    decodeTableWord 72 0x10000000000000028 = some (.wrIrqLower 0 8) := by decide

theorem test_decode_engine_writes :
    decodeTableWord 72 0x10000000000000030 = some (.wrDmaSrc 0 8) ∧
    decodeTableWord 72 0x10000000000000038 = some (.wrDmaDst 0 8) ∧
    decodeTableWord 72 0x10000000000000040 = some (.wrDmaLen 0 8) ∧
    decodeTableWord 72 0x10000000000000048 = some (.wrDmaCmd 0 8) ∧
    decodeTableWord 72 0x10000000000000050 = some (.wrDoorbell 0 8) := by decide

theorem test_decode_writes_with_no_register :
    decodeTableWord 72 0x10000000000000031 = some (.wrUnmapped 0x31 0 8) ∧
    decodeTableWord 72 0x10000000000000100 = some (.wrInvalid 0x100 0 8) := by decide
/-- `wr.4 0x10, 0xCAFEBABE` (program P2, line 4), and what follows the packet is left over. -/
theorem test_decode_packet_of_a_narrow_write :
    decode [0x10, 0, 0, 0, 0, 0, 0, 0, 0x21, 0xBE, 0xBA, 0xFE, 0xCA, 0, 0, 0, 0, 0x77] =
      .ok (.wrReg2 0xCAFEBABE 4, [0x77]) := by rfl

/-- `rd.4 0x04` (V-U1). -/
theorem test_decode_packet_of_a_narrow_read :
    decode [0x04, 0, 0, 0, 0, 0, 0, 0, 0x20, 0, 0, 0, 0, 0, 0, 0, 0] = .ok (.rdUnmapped 4 4, []) := by rfl

/-- The hooks have no access word (R121); each is an entry point of its own. -/
theorem test_decode_hooks :
    decode [0, 0, 0, 0, 0, 0, 0, 0, 2, 0, 0, 0, 0, 0, 0, 0, 0] = .ok (.init, []) ∧
      decode [0, 0, 0, 0, 0, 0, 0, 0, 4, 0, 0, 0, 0, 0, 0, 0, 0] = .ok (.reset, []) ∧
      decode [0, 0, 0, 0, 0, 0, 0, 0, 6, 0, 0, 0, 0, 0, 0, 0, 0] = .ok (.finalize, []) := ⟨rfl, rfl, rfl⟩

/-- A size outside 4 to 8 (R13) and a packet cut short are rejected by name. -/
theorem test_decode_rejects :
    decode [0, 0, 0, 0, 0, 0, 0, 0, 0x18, 0, 0, 0, 0, 0, 0, 0, 0] = .error (.accessSize 3) ∧
      decode [0, 0, 0, 0, 0, 0, 0, 0, 0x48, 0, 0, 0, 0, 0, 0, 0, 0] = .error (.accessSize 9) ∧
      decode [0, 0, 0, 0, 0, 0, 0, 0] = .error .truncated := ⟨rfl, rfl, rfl⟩

/-- A narrow access: the low bytes of the read, the low bits of the write (V-R4, V-R5). -/
theorem test_narrow_access :
    presentRead 4 0x1122334455667788 = [0x88, 0x77, 0x66, 0x55] ∧
      decodeRequest (.mmio true 0 4 0x11CAFEBABE) = .wrReg0 0xCAFEBABE 4 := by decide

/-- `MASK` (R9) at 1, 16, 32 and 64 (section 2.6). -/
theorem test_capability_mask :
    capabilityMask 1 = 1 ∧ capabilityMask 16 = 0xFFFF ∧ capabilityMask 32 = 0xFFFFFFFF ∧
      capabilityMask 64 = 0xFFFFFFFFFFFFFFFF := by decide

/-! ### The start states of 95_test_vectors.md -/

/-- `M<w>`, and `P<w>` where `msi` is false. -/
def start (msi : Bool) (w : Nat) : State := State.resetWith { Cfg.default with msiNegotiated := msi, addrWidth := w }

/-- `M32`. -/
def m32 : State := start true 32

/-- `P32`. -/
def p32 : State := start false 32

/-- The configuration of a transfer to the device. -/
def toDev (src dst len : Word) (s : State) : State :=
  s.setDma { s.dev.dma with src := src, dst := dst, len := len, cmd := 1 }

/-- The configuration of a transfer from the device. -/
def fromDev (src dst len : Word) (s : State) : State :=
  s.setDma { s.dev.dma with src := src, dst := dst, len := len, cmd := 2 }

/-- The Environment's next answer. -/
def answered (ok : Bool) (data : List Byte) (s : State) : State := { s with env := [.answers { ok := ok, data := data }] }

/-- The next bus-transfer call never returns. -/
def hanging (s : State) : State := { s with env := [.neverReturns] }

/-- Accesses are not serialized and a doorbell is in phase `p`. -/
def inPhase (p : DmaPhase) (s : State) : State :=
  ((withSerialized false s).setStatus .executing).setInflight (some p)

/-- `M32` after `finalize`. -/
def m32Off : State := (m32.setStatus .off).setReleased true

/-- `P32` after `finalize`. -/
def p32Off : State := p32.setStatus .off

/-- The next state of a step that has one. -/
def nextOf (r : Result) : Option State :=
  match r with
  | .next s => some s
  | .fault _ => none
  | .refused _ => none

/-- What transaction `i` leaves of `s`, seen through `f`. -/
def after {α : Type} (f : State → α) (i : Instr) (s : State) : Option α := (nextOf (exec i s)).map f

/-! ### General registers -/

/-- V-R1. -/
theorem test_write_then_read_reg0 :
    (nextOf (exec (.wrReg0 0x1122334455667788 8) m32)).bind (after State.reply (.rdReg0 8)) =
      some (some (.data 8 0x1122334455667788)) := by rfl

/-- V-R2, and `reg[3]` from the other end. -/
theorem test_read_registers_after_init :
    after State.reply (.rdReg1 8) m32 = some (some (.data 8 0)) ∧
      after State.reply (.rdReg3 4) (p32.setReg 3 7) = some (some (.data 4 7)) := ⟨rfl, rfl⟩

/-- V-R3, V-R10 and R159: each write reaches its own register. -/
theorem test_write_registers :
    after (fun t => t.dev.reg.toList) (.wrReg2 0xFFFFFFFFFFFFFFFF 8) m32 = some [0, 0, 0xFFFFFFFFFFFFFFFF, 0] ∧
      after (fun t => t.dev.reg.toList) (.wrReg1 2 8) (m32.setReg 1 1) = some [0, 2, 0, 0] ∧
      after (fun t => t.dev.reg.toList) (.wrReg3 3 8) p32Off = some [0, 0, 0, 3] := ⟨rfl, rfl, rfl⟩

/-- V-R4: the value returned is the whole register at size 4. -/
theorem test_read_reg_is_whole_at_size_four :
    after State.reply (.rdReg0 4) (m32.setReg 0 0x1122334455667788) =
      some (some (.data 4 0x1122334455667788)) := by rfl

/-- V-R9: `reg[2]` reads as ever after `finalize`. -/
theorem test_read_reg2_after_finalize :
    after State.reply (.rdReg2 8) (m32Off.setReg 2 0x42) = some (some (.data 8 0x42)) := by rfl

/-! ### Write-only, unmapped and invalid offsets -/

/-- V-W1 to V-W4 and R168 to R172. -/
theorem test_read_write_only :
    [Instr.rdWo20 8, .rdWo28 8, .rdWo30 8, .rdWo38 8, .rdWo40 8, .rdWo48 8, .rdWo50 8].map
        (fun i => after (fun t => (t.reply, t.trace, t.dev == (toDev 5 0x10000 1 m32).dev)) i (toDev 5 0x10000 1 m32)) =
      List.replicate 7 (some (some (.data 8 0xFFFFFFFFFFFFFFFF), [], true)) := by decide

/-- V-U1, V-I1: the sentinel, whole at size 4. -/
theorem test_read_no_register :
    after State.reply (.rdUnmapped 4 4) m32 = some (some (.data 4 0xFFFFFFFFFFFFFFFF)) ∧
      after State.reply (.rdInvalid 0x58 8) m32 = some (some (.data 8 0xFFFFFFFFFFFFFFFF)) := ⟨rfl, rfl⟩

/-- V-U2, V-I3: no configuration change and no doorbell. -/
theorem test_write_no_register :
    after State.dev (.wrUnmapped 0x4C 0xFF 8) (toDev 0 0x10000 1 m32) = some (toDev 0 0x10000 1 m32).dev ∧
      after State.dev (.wrInvalid 0x58 1 8) m32 = some m32.dev := ⟨rfl, rfl⟩

/-! ### The configuration gate -/

/-- V-C1, V-C4, V-C5 and R201: each write reaches its own field. -/
theorem test_configure :
    after (fun t => t.dev.dma) (.wrDmaSrc 0xDEADBEEF 8) m32 = some ⟨0xDEADBEEF, 0, 0, 0, 0xFFFFFFFF⟩ ∧
      after (fun t => t.dev.dma) (.wrDmaDst 0x10000 8) m32 = some ⟨0, 0x10000, 0, 0, 0xFFFFFFFF⟩ ∧
      after (fun t => t.dev.dma) (.wrDmaLen 0xFFFFFFFFFFFFFFFF 8) m32 =
        some ⟨0, 0, 0xFFFFFFFFFFFFFFFF, 0, 0xFFFFFFFF⟩ ∧
      after (fun t => t.dev.dma) (.wrDmaCmd 0x100000001 8) m32 = some ⟨0, 0, 0, 0x100000001, 0xFFFFFFFF⟩ :=
  ⟨rfl, rfl, rfl, rfl⟩

/-- V-C2, V-C3: dropped while Off and while Executing. -/
theorem test_configure_while_busy :
    after (fun t => t.dev.dma.len) (.wrDmaLen 9 8) m32Off = some 0 ∧
      after (fun t => t.dev.dma.dst) (.wrDmaDst 0x10800 8) (inPhase .awaitBus (toDev 0x1000 0x10000 4 m32)) =
        some 0x10000 := ⟨rfl, rfl⟩

/-! ### The doorbell -/

/-- V-D2: four bytes to the device. -/
theorem test_to_device :
    after (fun t => (t.dev.buf, t.trace, t.dev.status, raisedFlag t.dev.irq 0)) (.wrDoorbell 0 8)
        (answered true [1, 2, 3, 4] (toDev 0x1000 0x10000 4 m32)) =
      some ([(0, 1), (1, 2), (2, 3), (3, 4)], [.busRead 0x1000 4, .notify 0], .idle, true) := by decide

/-- V-D3: the last byte of the buffer. -/
theorem test_to_device_last_byte :
    after (fun t => t.dev.buf) (.wrDoorbell 0 8) (answered true [0x5A] (toDev 0x1000 0x10FFF 1 m32)) =
      some [(4095, 0x5A)] := by rfl

/-- V-D4: the inclusive bound with length 0. -/
theorem test_zero_length_at_the_bound :
    after (fun t => (t.dev.buf, t.trace)) (.wrDoorbell 0 8) (answered true [] (toDev 0x1000 0x11000 0 m32)) =
      some ([], [.busRead 0x1000 0, .notify 0]) := by rfl

/-- V-D5, V-D7, V-D10, V-D14: past the end of the buffer. -/
theorem test_overrun :
    exec (.wrDoorbell 0 8) (toDev 0x1000 0x11000 1 m32) = .fault .bufferOverrun ∧
      exec (.wrDoorbell 0 8) (toDev 0x1000 0x10FFF 2 m32) = .fault .bufferOverrun ∧
      exec (.wrDoorbell 0 8) (toDev 0x1000 0x10000 0xFFFFFFFFFFFFFFFF m32) = .fault .bufferOverrun ∧
      exec (.wrDoorbell 0 8) (fromDev 0x11000 0x5000 1 m32) = .fault .bufferOverrun := ⟨rfl, rfl, rfl, rfl⟩

/-- V-D1, V-D6, V-D13: out of the window, no change of the Device. -/
theorem test_out_of_window :
    after State.dev (.wrDoorbell 0 8) (toDev 0x1000 0xFFFF 1 m32) = some (toDev 0x1000 0xFFFF 1 m32).dev ∧
      after State.dev (.wrDoorbell 0 8) (toDev 0x1000 0x11001 1 m32) = some (toDev 0x1000 0x11001 1 m32).dev ∧
      after State.dev (.wrDoorbell 0 8) (fromDev 0x20000 0x5000 3 m32) = some (fromDev 0x20000 0x5000 3 m32).dev :=
  ⟨rfl, rfl, rfl⟩

/-- V-D11: two bytes from the device. -/
theorem test_from_device :
    after (fun t => (t.dev.buf, t.trace)) (.wrDoorbell 0 8)
        (answered true [] (fromDev 0x10002 0x5000 2 (m32.setBuf [(2, 0xAA), (3, 0xBB)]))) =
      some ([(2, 0xAA), (3, 0xBB)], [.busWrite 0x5000 [0xAA, 0xBB], .notify 0]) := by decide +kernel

/-- V-D16, V-D17: no command, and the whole word is compared. -/
theorem test_other_command :
    after State.trace (.wrDoorbell 0 8) (m32.setDma { src := 0x1000, dst := 0x10000, len := 4, cmd := 3, mask := 0xFFFFFFFF }) =
        some [] ∧
      after State.trace (.wrDoorbell 0 8)
          (m32.setDma { src := 0x1000, dst := 0x10000, len := 4, cmd := 0x100000001, mask := 0xFFFFFFFF }) =
        some [] := ⟨rfl, rfl⟩

/-- V-M1, V-M2: the bus-side address is masked at width 32 and whole at width 64; the log is left out of sight. -/
theorem test_capability_mask_of_a_transfer :
    (after (fun t => t.trace.filter isBusCall) (.wrDoorbell 0 8)
        (answered true [7] (toDev 0x123456789 0x10000 1 m32)) = some [.busRead 0x23456789 1]) ∧
      after (fun t => t.trace) (.wrDoorbell 0 8) (answered true [7] (toDev 0x123456789 0x10000 1 (start true 64))) =
        some [.busRead 0x123456789 1, .notify 0] := by
  refine ⟨?_, rfl⟩
  have h : exec (.wrDoorbell 0 8) (answered true [7] (toDev 0x123456789 0x10000 1 m32)) =
      .next ((((answered true [7] (toDev 0x123456789 0x10000 1 m32)).setStatus .executing |>
        (issued · 0x10000) |> landed).setStatus .idle).setReply (some .ack)) := by rfl
  rw [after, h]
  simp only [nextOf, Option.map_some, State.setReply_trace, State.setStatus_trace, landed_trace, issued_trace]
  rcases logEvents_cases ((answered true [7] (toDev 0x123456789 0x10000 1 m32)).setStatus .executing).draws
    .addressMasked with h | h <;> rw [h] <;> rfl

/-- V-B2: a failed bus write still completes; the log is left out of sight. -/
theorem test_bus_failure :
    after (fun t => (t.dev.buf, raisedFlag t.dev.irq 0)) (.wrDoorbell 0 8)
        (answered false [] (fromDev 0x10000 0x3000 2 p32)) = some ([], true) := by rfl

/-- V-D18: dropped after `finalize`. -/
theorem test_doorbell_after_finalize :
    after (fun t => (t.dev, t.trace)) (.wrDoorbell 0 8) (toDev 0x1000 0x10000 4 m32Off) =
      some ((toDev 0x1000 0x10000 4 m32Off).dev, []) := by rfl

/-- Program P5, lines 4, 6 and 7: the phases of an accepted doorbell. -/
theorem test_phases :
    (nextOf (agentTurn (inPhase .started (toDev 0x2000 0x10000 2 m32)))).map (fun t => (t.dev.inflight, t.trace)) =
        some (some .awaitBus, [.busRead 0x2000 2]) ∧
      (nextOf (agentTurn (answered true [0xAA, 0xBB] (inPhase .awaitBus (toDev 0x2000 0x10000 2 m32))))).map
          (fun t => (t.dev.inflight, t.dev.buf, t.trace)) =
        some (some .raised, [(0, 0xAA), (1, 0xBB)], [.notify 0]) ∧
      (nextOf (agentTurn (inPhase .raised (toDev 0x2000 0x10000 2 m32)))).map
          (fun t => (t.dev.inflight, t.dev.status, t.reply)) = some (none, .idle, some .ack) := ⟨rfl, by decide, rfl⟩

/-- R27, row 20 of 93_implementation_defined.md: a call that never returns has no step; a read is taken all the same
between the phases (R330), and a doorbell out of the window makes no call. -/
theorem test_hung_call :
    exec (.wrDoorbell 0 8) (hanging (toDev 0x1000 0x10000 4 m32)) = .refused .busNeverReturns ∧
      agentTurn (hanging (inPhase .awaitBus (toDev 0x2000 0x10000 2 m32))) = .refused .busNeverReturns ∧
      after State.reply (.rdReg0 8) (hanging (inPhase .awaitBus (toDev 0x2000 0x10000 2 m32))) =
        some (some (.data 8 0)) ∧
      after State.reply (.wrDoorbell 0 8) (hanging (toDev 0x1000 0xFFFF 4 m32)) = some (some .ack) :=
  ⟨rfl, rfl, rfl, rfl⟩

/-! ### Interrupts -/

/-- V-Q1, V-Q5. -/
theorem test_raise :
    after (fun t => (t.dev.irq, t.trace)) (.wrIrqRaise 0 8) p32 = some (.pin true, [.assertLine true]) ∧
      after (fun t => (raisedFlag t.dev.irq 0, raisedFlag t.dev.irq 1, t.trace)) (.wrIrqRaise 0x1234 8) m32 =
        some (true, false, [.notify 0]) := ⟨rfl, rfl⟩

/-- V-Q12, V-Q13, V-Q14: after `finalize`. -/
theorem test_interrupts_after_finalize :
    exec (.wrIrqRaise 0 8) m32Off = .fault .irqAfterRelease ∧
      exec (.wrIrqLower 0 8) m32Off = .fault .irqAfterRelease ∧
      after (fun t => (t.dev.irq, t.trace)) (.wrIrqRaise 0 8) p32Off = some (.pin true, [.assertLine true]) :=
  ⟨rfl, rfl, rfl⟩

/-- V-Q3, V-Q7, V-Q8. -/
theorem test_lower :
    after (fun t => (t.dev.irq, t.trace)) (.wrIrqLower 0 8) p32 = some (.pin false, [.assertLine false]) ∧
      after (fun t => (raisedFlag t.dev.irq 0, t.trace)) (.wrIrqLower 0 8)
          (m32.setIrq (.message (setVectorFlag (Vector.replicate 32 false) 0 true))) = some (false, []) ∧
      after (fun t => (t.dev.irq, t.trace)) (.wrIrqLower 0 8) m32 = some (m32.dev.irq, []) := ⟨rfl, rfl, rfl⟩

/-- V-Q9, V-Q10: vectors 32 and 31. -/
theorem test_vector_range :
    (nextOf (raiseIrq 32 m32)).map State.dev = some m32.dev ∧
      (nextOf (raiseIrq 31 m32)).map (fun t => (raisedFlag t.dev.irq 31, raisedFlag t.dev.irq 0, t.trace)) =
        some (true, false, [.notify 31]) := ⟨rfl, rfl⟩

/-! ### Lifecycle -/

/-- V-L1, V-L8. -/
theorem test_init :
    after (fun t => (t.dev, t.life, t.trace)) .init (State.powerOn p32.cfg) = some (p32.dev, .present, [.queryMsi]) ∧
      exec .init m32 = .fault .initTwice := ⟨rfl, rfl⟩

/-- V-L2. -/
theorem test_reset :
    after (fun t => (t.dev, t.trace)) .reset
        (((((toDev 0x2000 0x10000 4 m32).setReg 0 1).setReg 3 4).setBuf [(0, 9)]).setIrq
          (.message (setVectorFlag (Vector.replicate 32 false) 0 true))) = some (m32.dev, []) := by rfl

/-- V-L3, V-L6, V-L9. -/
theorem test_reset_in_other_states :
    after (fun t => (t.dev.irq, t.trace)) .reset (p32.setIrq (.pin true)) = some (.pin false, [.assertLine false]) ∧
      exec .reset m32Off = .fault .lifecycleAfterFinalize ∧
      exec .reset (inPhase .awaitBus (toDev 0x2000 0x10000 2 m32)) = .fault .lifecycleDuringTransfer :=
  ⟨rfl, rfl, rfl⟩

/-- V-L4, V-L5. -/
theorem test_finalize :
    after (fun t => (t.dev, t.trace)) .finalize (m32.setReg 0 7) = some ((m32Off.setReg 0 7).dev, [.releaseVectors]) ∧
      after (fun t => (t.dev, t.trace)) .finalize p32 = some (p32Off.dev, [.assertLine false]) := ⟨rfl, rfl⟩

/-- V-L7. -/
theorem test_finalize_twice : exec .finalize m32Off = .fault .lifecycleAfterFinalize := by rfl

/-- The first step after reset runs the transaction offered, and a hook's packet too. -/
theorem test_fetch :
    step (State.reset.withFetchWord 72 0x00000000000000010) = .next (State.reset.setReply (some (.data 8 0))) ∧
      (nextOf (step (State.reset.withFetchWord 72 0x60000000000000000))).map (fun t => t.dev.status) = some .off :=
  ⟨rfl, rfl⟩

/-! ### Witnesses: the hypotheses of the obligations are met -/

/-- A Device in message mode with no vector raised, in a state of the invariant. -/
theorem inv_message {s : State} (hl : s.life = .present) (hb : s.dev.buf.wf = true)
    (hi : s.dev.irq = .message (Vector.replicate 32 false)) (hc : s.cfg.msiNegotiated = true)
    (hm : s.dev.dma.mask = capabilityMask s.cfg.addrWidth) (hf : s.dev.fault = none)
    (hx : s.dev.status = .executing ↔ s.dev.inflight ≠ none) (hs : s.cfg.serialized = true → s.dev.inflight = none)
    (hr : s.dev.released = true ↔ s.dev.status = .off) (ha : AwaitedFits s.dev) : Inv s := by
  refine ⟨hb, fun _ => ⟨hm, by rw [hi, hc]; rfl, hx, hs, by simp [hr, hi, isMessage], ?_, ha, hf⟩,
    fun _ r h => by simp [hi] at h, fun h => by simp [hl] at h⟩
  intro r h v _
  simp only [hi, IrqState.message.injEq] at h
  simp [← h]

/-- A Device in pin mode whose line level is the pin flag, in a state of the invariant. -/
theorem inv_pin {s : State} {b : Bool} (hl : s.life = .present) (hb : s.dev.buf.wf = true)
    (ht : lineLevel s.trace = none ∨ lineLevel s.trace = some b) (hi : s.dev.irq = .pin b)
    (hc : s.cfg.msiNegotiated = false) (hm : s.dev.dma.mask = capabilityMask s.cfg.addrWidth)
    (hf : s.dev.fault = none) (hx : s.dev.status = .executing ↔ s.dev.inflight ≠ none)
    (hs : s.cfg.serialized = true → s.dev.inflight = none) (hr : s.dev.released = false)
    (ha : AwaitedFits s.dev) : Inv s := by
  refine ⟨hb, fun _ => ⟨hm, by rw [hi, hc]; rfl, hx, hs, by simp [hr, hi, isMessage], by simp [hi], ha, hf⟩,
    fun _ r h l hll => ?_, fun h => by simp [hl] at h⟩
  simp only [hi, IrqState.pin.injEq] at h
  rcases ht with ht | ht <;> simp_all

theorem inv_m32 : Inv m32 :=
  inv_message rfl rfl rfl rfl rfl rfl (by decide) (by decide) (by decide) nofun

theorem inv_m32Off : Inv m32Off :=
  inv_message rfl rfl rfl rfl rfl rfl (by decide) (by decide) (by decide) nofun

theorem inv_p32Off : Inv p32Off :=
  inv_pin rfl rfl (.inl rfl) rfl rfl rfl rfl (by decide) (by decide) rfl nofun

theorem inv_started : Inv (inPhase .started (toDev 0x2000 0x10000 2 m32)) :=
  inv_message rfl rfl rfl rfl rfl rfl (by decide) (by decide) (by decide) nofun

theorem inv_awaitBus : Inv (inPhase .awaitBus (toDev 0x2000 0x10000 2 m32)) :=
  inv_message rfl rfl rfl rfl rfl rfl (by decide) (by decide) (by decide)
    fun _ => ⟨0x10000, rfl, by unfold TransferFits; decide⟩

theorem inv_raised : Inv (inPhase .raised (toDev 0x2000 0x10000 2 m32)) :=
  inv_message rfl rfl rfl rfl rfl rfl (by decide) (by decide) (by decide) nofun

/-- `Ready`, a legal size at both ends of its range, and each DMA status. -/
theorem witness_ready :
    (Ready m32 ∧ m32.dev.status = .idle) ∧ (Ready m32Off ∧ m32Off.dev.status = .off) ∧
      (Ready (inPhase .started m32) ∧ (inPhase .started m32).dev.status = .executing) ∧
      sizeOk 4 = true ∧ sizeOk 8 = true ∧ sizeOk 3 = false ∧ sizeOk 9 = false :=
  ⟨⟨⟨rfl, rfl⟩, rfl⟩, ⟨⟨rfl, rfl⟩, rfl⟩, ⟨⟨rfl, rfl⟩, rfl⟩, rfl, rfl, rfl, rfl⟩

theorem witness_EncodeDecodeRoundTrip :
    (Instr.rdReg0 4).wf = true ∧ (Instr.rdUnmapped 0x01 4).wf = true ∧ (Instr.rdInvalid 0x51 8).wf = true ∧
      (Instr.wrDoorbell 0xFFFFFFFFFFFFFFFF 8).wf = true ∧ (Instr.wrReg3 0xFFFFFFFF 4).wf = true ∧
      (Instr.wrUnmapped 0x4F 0 5).wf = true ∧ (Instr.wrInvalid 0xFFFFFFFFFFFFFFFF 0 8).wf = true ∧
      Instr.finalize.wf = true := by decide

theorem witness_DecodeFollowsTheRegisterMap :
    (0x51#64).toNat > 0x50 ∧ ((0x4F#64).toNat ≤ 0x50 ∧ (0x4F#64).toNat % 8 ≠ 0) ∧
      ((0x01#64).toNat ≤ 0x50 ∧ (0x01#64).toNat % 8 ≠ 0) ∧ (0xFFFFFFFFFFFFFFFF#64).toNat > 0x50 := by decide

theorem witness_EveryKeySelectsExactlyOneRow : tableRows.any (fun row => row.priority == 0) = true := by decide

theorem witness_NarrowAccessesPresentLowBytes : sizeOk 4 = true ∧ 3 < 4 ∧ sizeOk 8 = true ∧ 7 < 8 := by decide

theorem witness_StepRunsTheDecodedTransaction :
    (m32.setInbox [.host (.hook .reset), .teardown]).inbox = .host (.hook .reset) :: [.teardown] ∧
      (m32.setInbox [.dmaAgent]).inbox = [.dmaAgent] ∧ (m32.setInbox [.teardown]).inbox = [.teardown] ∧
      m32.inbox = [] ∧ decodeTableWord 72 0x10000000000000050 = some (.wrDoorbell 0 8) := ⟨rfl, rfl, rfl, rfl, rfl⟩

theorem witness_RegisterReadsReturnTheRegister :
    (∃ t, exec .init (State.powerOn Cfg.default) = .next t) ∧ ∃ t, exec .reset (m32.setReg 2 9) = .next t :=
  ⟨⟨_, rfl⟩, ⟨_, rfl⟩⟩

theorem witness_ReadsHaveNoSideEffects :
    isRead (.rdReg0 8) = true ∧ (∃ t, exec (.rdReg0 8) m32 = .next t) ∧ isRead (.rdInvalid 0x51 4) = true ∧
      ∃ t, exec (.rdInvalid 0x51 4) m32 = .next t := ⟨rfl, ⟨_, rfl⟩, rfl, ⟨_, rfl⟩⟩

theorem witness_ReadsDependOnTheRegistersOnly :
    isRead (.rdReg3 8) = true ∧ SameWindow m32 (inPhase .started (toDev 0x2000 0x10000 2 m32)) ∧
      ∃ t, exec (.rdReg3 8) m32 = .next t := ⟨rfl, ⟨rfl, rfl, rfl⟩, ⟨_, rfl⟩⟩

theorem witness_RegistersChangeOnlyByTheirWriteOrReset :
    (∃ t, exec (.wrReg1 5 8) m32 = .next t) ∧ writesReg 0 (.wrReg1 5 8) = false ∧
      (∃ t, agentTurn (inPhase .raised m32) = .next t) ∧ ∃ t, teardown m32 = .next t :=
  ⟨⟨_, rfl⟩, rfl, ⟨_, rfl⟩, ⟨_, rfl⟩⟩

/-- The interrupt statements: pin mode, message mode before and after the release. -/
theorem witness_interrupt_modes :
    (Ready p32 ∧ p32.dev.irq = .pin false) ∧
      (Ready m32 ∧ m32.dev.irq = .message (Vector.replicate 32 false) ∧ m32.dev.released = false) ∧
      (Ready m32Off ∧ m32Off.dev.irq = .message (Vector.replicate 32 false) ∧ m32Off.dev.released = true) :=
  ⟨⟨⟨rfl, rfl⟩, rfl⟩, ⟨⟨rfl, rfl⟩, rfl, rfl⟩, ⟨⟨rfl, rfl⟩, rfl, rfl⟩⟩

/-- Another access than the lowering write, with a flag raised. -/
theorem witness_DiagnosticLowerClears :
    (∃ t, exec (.wrReg0 1 8) (p32.setIrq (.pin true)) = .next t) ∧ isHook (.wrReg0 1 8) = false ∧
      (∀ x z, Instr.wrReg0 1 8 ≠ .wrIrqLower x z) ∧ raisedFlag (p32.setIrq (.pin true)).dev.irq 0 = true :=
  ⟨⟨_, rfl⟩, rfl, nofun, rfl⟩

/-- Vectors 31 and 32, a flag clear and a flag set. -/
theorem witness_MessageModeRaisesAndLowersTheVector :
    32 ≤ 32 ∧ 31 < 32 ∧ (Vector.replicate 32 false)[31] = false ∧ (Vector.replicate 32 true)[31] = true ∧
      (m32.setIrq (.message (Vector.replicate 32 true))).dev.irq = .message (Vector.replicate 32 true) ∧
      (m32.setIrq (.message (Vector.replicate 32 true))).dev.released = false :=
  ⟨by decide, by decide, rfl, rfl, rfl, rfl⟩

theorem witness_ReleasedVectorsFault :
    Inv m32Off ∧ Ready m32Off ∧ isMessage m32Off.dev.irq = true ∧ m32Off.dev.released = true ∧
      m32Off.life ≠ .absent ∧ exec (.wrIrqLower 0 4) m32Off = .fault .irqAfterRelease ∧
      isMessage p32Off.dev.irq = false :=
  ⟨inv_m32Off, ⟨rfl, rfl⟩, rfl, rfl, by decide, rfl, rfl⟩

theorem witness_ConfigurationPersists :
    (∃ t, exec (.wrDmaSrc 5 8) m32Off = .next t) ∧ m32Off.dev.status ≠ .idle ∧
      (∃ t, exec (.wrDoorbell 5 8) (inPhase .started m32) = .next t) ∧ isHook (.wrDoorbell 5 8) = false ∧
      isConfigWrite (.wrDoorbell 5 8) = false ∧
      (∃ t, agentTurn (inPhase .raised m32) = .next t) ∧ ∃ t, teardown m32 = .next t :=
  ⟨⟨_, rfl⟩, by decide, ⟨_, rfl⟩, rfl, rfl, ⟨_, rfl⟩, ⟨_, rfl⟩⟩

theorem witness_CapabilityMaskKeepsLowBits : (1 ≤ 1 ∧ 1 ≤ 64) ∧ (1 ≤ 64 ∧ 64 ≤ 64) ∧ 63 < 64 := by decide

theorem witness_BusyDoorbellIsDropped :
    Ready m32Off ∧ m32Off.dev.status ≠ .idle ∧ Ready (inPhase .started m32) ∧
      (inPhase .started m32).dev.status ≠ .idle := ⟨⟨rfl, rfl⟩, by decide, ⟨rfl, rfl⟩, by decide⟩

/-- No command; one below and one above the window, for each direction, offered and in flight. -/
theorem witness_NoInterruptWithoutATransfer :
    (Ready m32 ∧ m32.dev.status = .idle ∧ m32.cfg.serialized = true ∧ m32.dev.dma.cmd ≠ 1 ∧ m32.dev.dma.cmd ≠ 2) ∧
      ((toDev 0 0xFFFF 1 m32).dev.dma.cmd = 1 ∧ ¬ (0x10000 ≤ (0xFFFF#64).toNat ∧ (0xFFFF#64).toNat ≤ 0x11000)) ∧
      ((fromDev 0x11001 0 1 m32).dev.dma.cmd = 2 ∧
        ¬ (0x10000 ≤ (0x11001#64).toNat ∧ (0x11001#64).toNat ≤ 0x11000)) ∧
      (Ready (inPhase .started m32) ∧ (inPhase .started m32).cfg.serialized = false ∧
        (inPhase .started m32).dev.inflight = some .started) :=
  ⟨⟨⟨rfl, rfl⟩, rfl, rfl, by decide, by decide⟩, ⟨rfl, by decide⟩, ⟨rfl, by decide⟩, ⟨rfl, rfl⟩, rfl, rfl⟩

/-- The whole buffer, and the inclusive bound with length 0. -/
theorem witness_ToDeviceTransfer :
    ∀ s ∈ [toDev 0x1000 0x10000 4096 m32, toDev 0x1000 0x11000 0 m32, toDev 0x1000 0x10FFF 1 m32],
      s.life = .present ∧ s.dev.fault = none ∧ s.dev.status = .idle ∧ s.cfg.serialized = true ∧
        s.dev.released = false ∧ s.busReturns = true ∧ s.dev.dma.cmd = 1 ∧ 0x10000 ≤ s.dev.dma.dst.toNat ∧
        s.dev.dma.dst.toNat - 0x10000 + s.dev.dma.len.toNat ≤ 0x1000 ∧ s.dev.buf.wf = true := by decide

theorem witness_FromDeviceTransfer :
    ∀ s ∈ [fromDev 0x10000 0x1000 4096 m32, fromDev 0x11000 0x1000 0 m32, fromDev 0x10FFF 0x1000 1 m32],
      s.life = .present ∧ s.dev.fault = none ∧ s.dev.status = .idle ∧ s.cfg.serialized = true ∧
        s.dev.released = false ∧ s.busReturns = true ∧ s.dev.dma.cmd = 2 ∧ 0x10000 ≤ s.dev.dma.src.toNat ∧
        s.dev.dma.src.toNat - 0x10000 + s.dev.dma.len.toNat ≤ 0x1000 := by decide

/-- Off by one at both ends of the window, in both regimes, and a step that faults. -/
theorem witness_OverrunFaultsBeforeTheBusCall :
    (Ready (toDev 0 0x10000 4097 m32) ∧ (toDev 0 0x10000 4097 m32).dev.dma.cmd = 1 ∧
        0x1000 < (0x10000#64).toNat - 0x10000 + (4097#64).toNat ∧ (0x10000#64).toNat ≤ 0x11000) ∧
      (Ready (inPhase .started (fromDev 0x11000 0 1 m32)) ∧
        (inPhase .started (fromDev 0x11000 0 1 m32)).dev.dma.cmd = 2 ∧
        (inPhase .started (fromDev 0x11000 0 1 m32)).cfg.serialized = false ∧
        (inPhase .started (fromDev 0x11000 0 1 m32)).dev.inflight = some .started ∧
        0x1000 < (0x11000#64).toNat - 0x10000 + (1#64).toNat) ∧
      step (State.withFetchWord (toDev 0 0x10000 4097 m32) 72 0x10000000000000050) = .fault .bufferOverrun :=
  ⟨⟨⟨rfl, rfl⟩, rfl, by decide, by decide⟩, ⟨⟨rfl, rfl⟩, rfl, rfl, rfl, by decide⟩, rfl⟩

theorem witness_ZeroLengthTransferStillCompletes :
    ∀ s ∈ [toDev 0x1000 0x10000 0 m32, toDev 0x1000 0x11000 0 m32],
      s.life = .present ∧ s.dev.fault = none ∧ s.dev.status = .idle ∧ s.cfg.serialized = true ∧
        s.dev.released = false ∧ s.busReturns = true ∧ s.dev.dma.len = 0 ∧ s.dev.dma.cmd = 1 ∧
        0x10000 ≤ s.dev.dma.dst.toNat ∧ s.dev.dma.dst.toNat ≤ 0x11000 := by decide

theorem witness_DoorbellFrame :
    (∃ t, exec (.wrDoorbell 0 8) (answered true [7] (toDev 0x1000 0x10001 1 m32)) = .next t) ∧
      (0 < bufOffset 0x10001 ∧ bufOffset 0x10001 + (1#64).toNat ≤ 2) ∧
      (toDev 0x1000 0x10001 1 m32).cfg.serialized = true ∧ (fromDev 0x10001 0x1000 1 m32).dev.dma.cmd ≠ 1 :=
  ⟨⟨_, rfl⟩, by decide, rfl, by decide⟩

theorem witness_OtherAccessesLeaveBufferAndInterrupts :
    (∃ t, exec (.wrReg0 1 8) m32 = .next t) ∧ isHook (.wrReg0 1 8) = false ∧
      (∀ v z, Instr.wrReg0 1 8 ≠ .wrDoorbell v z) ∧
      ∀ v z, Instr.wrReg0 1 8 ≠ .wrIrqRaise v z ∧ Instr.wrReg0 1 8 ≠ .wrIrqLower v z :=
  ⟨⟨_, rfl⟩, rfl, nofun, fun _ _ => ⟨nofun, nofun⟩⟩

/-- One state for each phase: accept, issue with and without a call, land, finish. -/
theorem witness_DoorbellPhases :
    (Ready (withSerialized false m32) ∧ (withSerialized false m32).cfg.serialized = false ∧
        (withSerialized false m32).dev.status = .idle) ∧
      ((inPhase .started (toDev 0x2000 0x11000 0 m32)).dev.dma.cmd = 1 ∧ TransferFits 0x11000 0) ∧
      ((inPhase .started (fromDev 0x10000 0x2000 4096 m32)).dev.dma.cmd = 2 ∧ TransferFits 0x10000 4096) ∧
      ((inPhase .started (toDev 0x2000 0x11001 2 m32)).dev.dma.cmd = 1 ∧ inWindow 0x11001 = false) ∧
      ((inPhase .started (fromDev 0xFFFF 0x2000 2 m32)).dev.dma.cmd = 2 ∧ inWindow 0xFFFF = false) ∧
      ((inPhase .started m32).dev.dma.cmd ≠ 1 ∧ (inPhase .started m32).dev.dma.cmd ≠ 2) ∧
      (IrqLive (inPhase .awaitBus (toDev 0x2000 0x10000 2 m32)) ∧
        (inPhase .awaitBus (toDev 0x2000 0x10000 2 m32)).busReturns = true ∧
        AwaitedFits (inPhase .awaitBus (toDev 0x2000 0x10000 2 m32)).dev) ∧
      (inPhase .raised m32).dev.inflight = some .raised :=
  ⟨⟨⟨rfl, rfl⟩, rfl, rfl⟩, ⟨rfl, by unfold TransferFits; decide⟩, ⟨rfl, by unfold TransferFits; decide⟩,
    ⟨rfl, rfl⟩, ⟨rfl, rfl⟩, by decide, ⟨fun _ => rfl, rfl, (inv_awaitBus.device nofun).awaited⟩, rfl⟩

theorem witness_SerializedDoorbellIsItsPhases : (toDev 0x2000 0x10000 2 m32).dev.inflight = none := by rfl

/-- Each phase, and in phase Started a transfer that fits and one that overruns. -/
theorem witness_AcceptedDoorbellCompletes :
    (Inv (inPhase .started (toDev 0x2000 0x10000 2 m32)) ∧ Inv (inPhase .awaitBus (toDev 0x2000 0x10000 2 m32)) ∧
      Inv (inPhase .raised (toDev 0x2000 0x10000 2 m32)) ∧ Inv (inPhase .started (toDev 0x2000 0x11000 1 m32))) ∧
      (inPhase .started m32).life = .present ∧ (inPhase .started m32).dev.status = .executing ∧
      (inPhase .started m32).busReturns = true ∧
      (inPhase .started (toDev 0x2000 0x11000 1 m32)).dev.inflight = some .started ∧
      deviceSide (inPhase .started (toDev 0x2000 0x11000 1 m32)).dev.dma = some 0x11000 ∧
      inWindow 0x11000 = true ∧ 0x1000 < bufOffset 0x11000 + (1#64).toNat :=
  ⟨⟨inv_started, inv_awaitBus, inv_raised,
      inv_message rfl rfl rfl rfl rfl rfl (by decide) (by decide) (by decide) nofun⟩,
    rfl, rfl, rfl, rfl, rfl, rfl, by decide⟩

theorem witness_hooks :
    (State.powerOn Cfg.default).life = .absent ∧ (Ready m32 ∧ m32.dev.inflight = none) ∧
      (m32.dev.status ≠ .off ∧ IrqLive m32) ∧ (Ready p32 ∧ p32.dev.status ≠ .off ∧ IrqLive p32) ∧
      (Ready m32Off ∧ m32Off.dev.status = .off) :=
  ⟨rfl, ⟨⟨rfl, rfl⟩, rfl⟩, ⟨by decide, fun _ => rfl⟩, ⟨⟨rfl, rfl⟩, by decide, nofun⟩, ⟨⟨rfl, rfl⟩, rfl⟩⟩

theorem witness_HooksDuringATransferFault :
    (Ready (inPhase .awaitBus (toDev 0x2000 0x10000 2 m32)) ∧ Inv (inPhase .awaitBus (toDev 0x2000 0x10000 2 m32)) ∧
        (inPhase .awaitBus (toDev 0x2000 0x10000 2 m32)).dev.inflight ≠ none ∧ isHook .init = true) ∧
      Inv m32 ∧ m32.life ≠ .absent ∧ m32.cfg.serialized = true :=
  ⟨⟨⟨rfl, rfl⟩, inv_awaitBus, by decide, rfl⟩, inv_m32, by decide, rfl⟩

theorem witness_AfterFinalize :
    (Inv m32Off ∧ Ready m32Off ∧ m32Off.dev.status = .off ∧ isMessage m32Off.dev.irq = true) ∧
      (Inv p32Off ∧ Ready p32Off ∧ p32Off.dev.status = .off ∧ isMessage p32Off.dev.irq = false) ∧
      isRead (.rdReg2 8) = true ∧ accessSizeOf (.rdReg2 8) = some 8 :=
  ⟨⟨inv_m32Off, ⟨rfl, rfl⟩, rfl, rfl⟩, ⟨inv_p32Off, ⟨rfl, rfl⟩, rfl, rfl⟩, rfl, rfl⟩

theorem witness_BrokenHostDutiesHaveNoStep :
    ((State.powerOn Cfg.default).life = .absent ∧ Instr.rdReg0 8 ≠ .init) ∧
      (m32.setLife .tornDown).life = .tornDown ∧
      (Ready m32 ∧ accessSizeOf (.rdReg0 3) = some 3 ∧ sizeOk 3 = false) ∧
      accessSizeOf (.wrReg0 0 9) = some 9 ∧ sizeOk 9 = false :=
  ⟨⟨rfl, by decide⟩, rfl, ⟨⟨rfl, rfl⟩, rfl, rfl⟩, rfl, rfl⟩

theorem witness_FaultsAreSticky :
    (m32.faulted .bufferOverrun).life = .present ∧
      (m32.faulted .bufferOverrun).dev.fault = some .bufferOverrun := ⟨rfl, rfl⟩

/-- Each fault at a state of the invariant, and the agent's. -/
theorem witness_FaultsOnlyWhereTheirRulesSay :
    (Inv (toDev 0 0x11000 1 m32) ∧ exec (.wrDoorbell 0 8) (toDev 0 0x11000 1 m32) = .fault .bufferOverrun) ∧
      (Inv m32Off ∧ exec (.wrIrqRaise 0 8) m32Off = .fault .irqAfterRelease ∧
        exec .reset m32Off = .fault .lifecycleAfterFinalize) ∧
      (Inv m32 ∧ m32.life ≠ .absent ∧ exec .init m32 = .fault .initTwice) ∧
      (Inv (inPhase .raised (toDev 0x2000 0x10000 2 m32)) ∧
        exec .finalize (inPhase .raised (toDev 0x2000 0x10000 2 m32)) = .fault .lifecycleDuringTransfer) ∧
      (Inv (inPhase .started (toDev 0x2000 0x11000 1 m32)) ∧
        agentTurn (inPhase .started (toDev 0x2000 0x11000 1 m32)) = .fault .bufferOverrun) :=
  ⟨⟨inv_message rfl rfl rfl rfl rfl rfl (by decide) (by decide) (by decide) nofun, rfl⟩,
    ⟨inv_m32Off, rfl, rfl⟩, ⟨inv_m32, by decide, rfl⟩, ⟨inv_raised, rfl⟩,
    ⟨inv_message rfl rfl rfl rfl rfl rfl (by decide) (by decide) (by decide) nofun, rfl⟩⟩

/-- A step from a state of the invariant that has a next state: a transaction, a turn of the agent, a teardown. -/
theorem witness_invariant_steps :
    (Inv m32 ∧ ∃ t, step m32 = .next t) ∧
      (Inv (inPhase .raised (toDev 0x2000 0x10000 2 m32)) ∧
        ∃ t, step (inPhase .raised (toDev 0x2000 0x10000 2 m32)) = .next t) ∧
      (∃ t, step (m32.withFetchWord 72 0x10000000000000020) = .next t) ∧
      (∃ t, step (m32.setInbox [.teardown]) = .next t) ∧ m32.dev.buf.wf = true ∧ m32.life ≠ .absent :=
  ⟨⟨inv_m32, ⟨_, rfl⟩⟩, ⟨inv_raised, ⟨_, rfl⟩⟩, ⟨_, rfl⟩, ⟨_, rfl⟩, rfl, by decide⟩

/-- Status changes at a doorbell, at `finalize` and at the agent's finish, and a step while Off. -/
theorem witness_StatusTransitions :
    (∃ t, exec (.wrDoorbell 0 8) (withSerialized false m32) = .next t ∧ t.dev.status = .executing) ∧
      (∃ t, exec .finalize m32 = .next t ∧ t.dev.status = .off) ∧
      (∃ t, agentTurn (inPhase .raised (toDev 0x2000 0x10000 2 m32)) = .next t ∧ t.dev.status = .idle) ∧
      Inv m32Off ∧ m32Off.life ≠ .absent ∧ m32Off.dev.status = .off ∧
      ∃ t, step (m32Off.withFetchWord 72 0x10000000000000050) = .next t :=
  ⟨⟨_, rfl, rfl⟩, ⟨_, rfl, rfl⟩, ⟨_, rfl, rfl⟩, inv_m32Off, by decide, rfl, ⟨_, rfl⟩⟩

/-- A pin device whose line has been driven, and a step that lowers it. -/
theorem witness_LineLevelIsThePinFlag :
    Inv ((p32.setIrq (.pin true)).emit (.assertLine true)) ∧
      ∃ t, step (State.withFetchWord ((p32.setIrq (.pin true)).emit (.assertLine true)) 72 0x10000000000000028) =
          .next t ∧ t.dev.irq = .pin false ∧ lineLevel t.trace = some false :=
  ⟨inv_pin (b := true) rfl rfl (.inr rfl) rfl rfl rfl rfl (by decide) (by decide) rfl nofun, ⟨_, rfl, rfl, rfl⟩⟩

/-- Two transactions offered; a doorbell taken in one step; a machine at rest. -/
theorem witness_TransactionsTakeEffectInOrder :
    (∃ t, step (m32.setInbox [.host (.mmio true 0 8 5), .host (.mmio false 0 8 0)]) = .next t) ∧
      (Inv m32 ∧ m32.life = .present ∧ m32.cfg.serialized = true) ∧
      (Inv (answered true [7] (toDev 0x2000 0x10000 1 m32)) ∧
        ∃ t, exec (.wrDoorbell 0 8) (answered true [7] (toDev 0x2000 0x10000 1 m32)) = .next t) :=
  ⟨⟨_, rfl⟩, ⟨inv_m32, rfl, rfl⟩,
    ⟨inv_message rfl rfl rfl rfl rfl rfl (by decide) (by decide) (by decide) nofun, ⟨_, rfl⟩⟩⟩

/-- A write, or a reset, or an `init`, and transactions after it that do not write the register. -/
theorem witness_ReadsReturnTheLastWrite :
    (∃ t u, exec (writeOf 2 9 8) m32 = .next t ∧ execAll [.wrReg1 3 4, .wrIrqRaise 0 8] t = .next u) ∧
      (∃ t u, exec .reset (m32.setReg 2 9) = .next t ∧ execAll [.wrReg1 3 4] t = .next u) ∧
      (∃ t u, exec .init (State.powerOn Cfg.default) = .next t ∧ execAll [] t = .next u) ∧
      ∀ j ∈ [Instr.wrReg1 3 4, .wrIrqRaise 0 8], writesReg 2 j = false ∧ j ≠ .reset :=
  ⟨⟨_, _, rfl, rfl⟩, ⟨_, _, rfl, rfl⟩, ⟨_, _, rfl, rfl⟩, by decide⟩

/-- A hung call of a doorbell in one step, and of one in flight, where a step of another turn remains. -/
theorem witness_HungBusCallsNeverComplete :
    (Ready (hanging (toDev 0x1000 0x11000 0 m32)) ∧ TransferFits 0x11000 0 ∧
        (hanging (toDev 0x1000 0x11000 0 m32)).dev.status = .idle ∧
        deviceSide (hanging (toDev 0x1000 0x11000 0 m32)).dev.dma = some 0x11000 ∧
        (hanging (toDev 0x1000 0x11000 0 m32)).busReturns = false ∧
        exec (.wrDoorbell 0 8) (hanging (toDev 0x1000 0x11000 0 m32)) = .refused .busNeverReturns) ∧
      Inv (hanging (inPhase .awaitBus (toDev 0x2000 0x10000 2 m32))) ∧
      Ready (hanging (inPhase .awaitBus (toDev 0x2000 0x10000 2 m32))) ∧
      agentTurn (hanging (inPhase .awaitBus (toDev 0x2000 0x10000 2 m32))) = .refused .busNeverReturns ∧
      ∃ t, step ((hanging (inPhase .awaitBus (toDev 0x2000 0x10000 2 m32))).setInbox [.host (.mmio false 0 8 0)]) =
        .next t :=
  ⟨⟨⟨rfl, rfl⟩, by unfold TransferFits; decide, rfl, rfl, rfl, rfl⟩,
    inv_message rfl rfl rfl rfl rfl rfl (by decide) (by decide) (by decide)
      (fun _ => ⟨0x10000, rfl, by unfold TransferFits; decide⟩), ⟨rfl, rfl⟩, rfl, ⟨_, rfl⟩⟩

end Sys2Proof.Tests
end

section
/-! PROOFS of the family 00_scope: what one step can do as a relation between two States, and from it the statements
about parameters, events, refusals and the two regimes of SERIALIZED. -/

namespace Sys2Proof.Machine

/-! ### The step -/

theorem step_of_host {s : State} {r : Request} {rest : List Turn} (h : s.inbox = .host r :: rest) :
    step s = exec (decodeRequest r) (s.setInbox rest) := by
  simp [step, h]

theorem step_of_dmaAgent {s : State} {rest : List Turn} (h : s.inbox = .dmaAgent :: rest) :
    step s = agentTurn (s.setInbox rest) := by
  simp [step, h]

theorem step_of_teardown {s : State} {rest : List Turn} (h : s.inbox = .teardown :: rest) :
    step s = teardown (s.setInbox rest) := by
  simp [step, h]

theorem step_of_idle {s : State} (h : s.inbox = []) : step s = agentTurn s := by
  simp [step, h]

/-- What a step can do: it is a transaction, a turn of the agent or the teardown, on the State with the turns that are
left. -/
theorem step_eq_next {s t : State} (h : step s = .next t) :
    ∃ rest, (∃ i, exec i (s.setInbox rest) = .next t) ∨ agentTurn (s.setInbox rest) = .next t ∨
      teardown (s.setInbox rest) = .next t := by
  rcases hq : s.inbox with _ | ⟨r | _ | _, rest⟩
  · rw [step_of_idle hq] at h
    exact ⟨s.inbox, .inr (.inl h)⟩
  · rw [step_of_host hq] at h
    exact ⟨rest, .inl ⟨_, h⟩⟩
  · rw [step_of_dmaAgent hq] at h
    exact ⟨rest, .inr (.inl h)⟩
  · rw [step_of_teardown hq] at h
    exact ⟨rest, .inr (.inr h)⟩

/-- The instruction of a word is that of the request its packet carries. -/
theorem decodeTableWord_eq_some {n w : Nat} {i : Instr} (h : decodeTableWord n w = some i) :
    ∃ request rest, parsePacket (packetOfNat (w % 2 ^ n)) = some (request, rest) ∧ decodeRequest request = i := by
  unfold decodeTableWord decode at h
  rcases hp : parsePacket (packetOfNat (w % 2 ^ n)) with _ | ⟨request, rest⟩
  · simp [hp] at h
  · cases he : requestSizeError request with
    | some e => simp [hp, he] at h
    | none => exact ⟨request, rest, rfl, by simpa [hp, he] using h⟩

/-- Offering a word that decodes puts its request in front of the turns offered. -/
theorem withFetchWord_of_decodes {n w : Nat} {i : Instr} (h : decodeTableWord n w = some i) (s : State) :
    ∃ request, s.withFetchWord n w = s.setInbox (.host request :: s.inbox) ∧ decodeRequest request = i := by
  obtain ⟨request, rest, hp, hi⟩ := decodeTableWord_eq_some h
  exact ⟨request, by simp [State.withFetchWord, hp], hi⟩

/-- Settles O7: each kind of turn is an equation of `step`, and a word's request is the turn taken. -/
theorem stepRunsTheDecodedTransaction : Obligations.StepRunsTheDecodedTransaction := by
  refine ⟨fun _ _ _ => step_of_host, fun _ _ => step_of_dmaAgent, fun _ _ => step_of_teardown,
    fun _ => step_of_idle, fun s n w i h => ?_⟩
  obtain ⟨request, hoffer, rfl⟩ := withFetchWord_of_decodes h s
  rw [hoffer]
  exact step_of_host rfl

/-- Settles O53: the free value of a log point decides between its event and nothing. -/
theorem logPointsAreOptional : Obligations.LogPointsAreOptional := by
  refine ⟨fun s k => ⟨?_, rfl, rfl, rfl, rfl, rfl, rfl⟩, rfl⟩
  rcases logEvents_cases s.draws k with hno | hlog
  · exact .inl (by simp [hno])
  · exact .inr (by simp [hlog])

/-! ### The gates of every transaction -/

theorem whenAlive_of_absent {s : State} (h : s.life = .absent) (k : State → Result) :
    whenAlive s k = .refused .beforeInit := by
  simp [whenAlive, h]

theorem whenAlive_of_tornDown {s : State} (h : s.life = .tornDown) (k : State → Result) :
    whenAlive s k = .refused .afterTeardown := by
  simp [whenAlive, h]

theorem whenAlive_of_fault {s : State} {f : Fault} (hl : s.life = .present) (hf : s.dev.fault = some f)
    (k : State → Result) : whenAlive s k = .fault f := by
  simp [whenAlive, hl, hf, raiseFault]

/-- Every register-window access stands behind the gate of its size (R150, R151). -/
theorem exec_eq_whenSize {i : Instr} {z : Nat} (h : accessSizeOf i = some z) :
    ∃ k, ∀ s, exec i s = whenSize z s k := by
  cases i <;> cases h <;> exact ⟨_, fun _ => rfl⟩

/-- Every transaction but an `init` that finds no Device stands behind the gate of the Device (R311). -/
theorem exec_eq_whenAlive (i : Instr) :
    ∃ k, ∀ s, i ≠ .init ∨ s.life ≠ .absent → exec i s = whenAlive s k := by
  cases hz : accessSizeOf i with
  | some z =>
    obtain ⟨k, hk⟩ := exec_eq_whenSize hz
    exact ⟨_, fun s _ => hk s⟩
  | none =>
    cases i with
    | init =>
      refine ⟨initAgain, fun s h => ?_⟩
      show execInit s = _
      cases hl : s.life <;> simp_all [execInit]
    | reset | finalize => exact ⟨_, fun _ _ => rfl⟩
    | _ => cases hz

/-- Settles O43: the gates every transaction stands behind have no step there. -/
theorem brokenHostDutiesHaveNoStep : Obligations.BrokenHostDutiesHaveNoStep := by
  refine ⟨fun s i hl hi => ?_, fun s i hl => ?_, fun s i z hr hz hs => ?_, fun s hr => whenAlive_of_ready hr _⟩
  · obtain ⟨k, hk⟩ := exec_eq_whenAlive i
    rw [hk s (.inl hi), whenAlive_of_absent hl]
  · obtain ⟨k, hk⟩ := exec_eq_whenAlive i
    rw [hk s (.inr (by simp [hl])), whenAlive_of_tornDown hl]
  · obtain ⟨k, hk⟩ := exec_eq_whenSize hz
    rw [hk s, whenSize_of_bad_size hr hs]

/-! ### The parameters, the mask and the interrupt mode -/

/-- `t` has the parameters, the mask and the interrupt mode of `s`. -/
def KeepsMaskAndMode (s t : State) : Prop :=
  t.cfg = s.cfg ∧ t.dev.dma.mask = s.dev.dma.mask ∧ isMessage t.dev.irq = isMessage s.dev.irq

theorem execute_keepsMaskAndMode {s t : State} (h : execute s = .next t) : KeepsMaskAndMode s t := by
  obtain ⟨-, rfl⟩ | ⟨a, -, -, rfl⟩ | ⟨a, -, -, -, -, rfl⟩ := execute_eq_next h <;> simp [KeepsMaskAndMode]

theorem agentTurn_keepsMaskAndMode {s t : State} (h : agentTurn s = .next t) : KeepsMaskAndMode s t := by
  obtain rfl | ⟨-, -, ⟨-, u, hu, rfl⟩ | ⟨-, u, hu, rfl⟩ | ⟨-, -, -, -, rfl⟩ | ⟨-, rfl⟩⟩ := agentTurn_eq_next h
  · simp [KeepsMaskAndMode]
  · obtain ⟨-, rfl⟩ | ⟨a, -, -, rfl⟩ := issue_eq_noCall hu <;> simp [KeepsMaskAndMode]
  · obtain ⟨a, -, -, rfl⟩ := issue_eq_call hu
    simp [KeepsMaskAndMode]
  · simp [KeepsMaskAndMode]
  · simp [KeepsMaskAndMode]

@[simp] theorem dmaReset_cfg (s : State) : (dmaReset s).cfg = s.cfg := rfl
@[simp] theorem dmaReset_trace (s : State) : (dmaReset s).trace = s.trace := rfl
@[simp] theorem dmaReset_dma (s : State) : (dmaReset s).dev.dma = DmaConfig.zeroed s.dev.dma.mask := rfl
@[simp] theorem dmaReset_irq (s : State) : (dmaReset s).dev.irq = s.dev.irq := rfl
@[simp] theorem dmaFinalize_cfg (s : State) : (dmaFinalize s).cfg = s.cfg := rfl
@[simp] theorem dmaFinalize_trace (s : State) : (dmaFinalize s).trace = s.trace := rfl
@[simp] theorem dmaFinalize_dma (s : State) : (dmaFinalize s).dev.dma = DmaConfig.zeroed s.dev.dma.mask := rfl
@[simp] theorem dmaFinalize_irq (s : State) : (dmaFinalize s).dev.irq = s.dev.irq := rfl
@[simp] theorem DmaConfig.zeroed_mask (m : Word) : (DmaConfig.zeroed m).mask = m := rfl

/-- The mask and the mode are set by `init` alone, which needs that there is no Device. -/
theorem exec_keepsMaskAndMode {i : Instr} {s t : State} (hi : i ≠ .init) (h : exec i s = .next t) :
    KeepsMaskAndMode s t := by
  have ht := (exec_eq_next h).2
  cases i with
  | init => exact absurd rfl hi
  | wrIrqRaise | wrIrqLower | reset =>
    obtain ⟨-, rfl⟩ := ht
    simp [KeepsMaskAndMode]
  | wrDmaSrc | wrDmaDst | wrDmaLen | wrDmaCmd => obtain ⟨-, rfl⟩ | ⟨-, rfl⟩ := ht <;> simp [KeepsMaskAndMode]
  | wrDoorbell =>
    obtain ⟨-, rfl⟩ | ⟨-, -, u, hu, rfl⟩ | ⟨-, -, rfl⟩ := ht
    · simp [KeepsMaskAndMode]
    · simpa [KeepsMaskAndMode] using execute_keepsMaskAndMode hu
    · simp [KeepsMaskAndMode]
  | finalize =>
    obtain ⟨-, u, rfl, rfl⟩ := ht
    split <;> simp [KeepsMaskAndMode]
  | _ => cases ht; simp [KeepsMaskAndMode]

/-- Settles O49: no meaning but that of `init` writes them, and `init` needs that there is no Device. -/
theorem parametersMaskAndModeNeverChange : Obligations.ParametersMaskAndModeNeverChange := by
  intro s t h
  obtain ⟨rest, ⟨i, hi⟩ | ha | hd⟩ := step_eq_next h
  · by_cases hinit : i = .init
    · subst hinit
      obtain ⟨hl, rfl⟩ := execInit_eq_next hi
      exact ⟨rfl, fun hne => absurd hl hne⟩
    · exact (exec_keepsMaskAndMode hinit hi).imp_right fun hk _ => hk
  · exact (agentTurn_keepsMaskAndMode ha).imp_right fun hk _ => hk
  · obtain ⟨-, rfl⟩ := teardown_eq_next hd
    simp

/-! ### The events of one step -/

/-- At most one bus-transfer call and one interrupt, and no call after the interrupt. -/
def CallThenInterrupt (ev : List Event) : Prop :=
  (ev.filter isBusCall).length ≤ 1 ∧ (ev.filter deliversInterrupt).length ≤ 1 ∧
    ev.Pairwise fun a b => deliversInterrupt a = true → isBusCall b = false

/-- From `s` to `t` the trace grew by at most one bus-transfer call and one interrupt, in that order. -/
def Appends (s t : State) : Prop := ∃ ev, t.trace = s.trace ++ ev ∧ CallThenInterrupt ev

theorem callThenInterrupt_nil : CallThenInterrupt [] := by simp [CallThenInterrupt]

theorem callThenInterrupt_singleton (e : Event) : CallThenInterrupt [e] :=
  ⟨List.length_filter_le _ _, List.length_filter_le _ _, List.pairwise_singleton _ _⟩

theorem callThenInterrupt_logEvents (n : Nat) (k : LogKind) : CallThenInterrupt (logEvents n k) := by
  rcases logEvents_cases n k with h | h <;> rw [h]
  · exact callThenInterrupt_nil
  · exact callThenInterrupt_singleton _

@[simp] theorem isBusCall_busEvent (d : DmaConfig) (off : Nat) (buf : Memory) :
    isBusCall (busEvent d off buf) = true := by
  unfold busEvent; split <;> rfl

@[simp] theorem deliversInterrupt_busEvent (d : DmaConfig) (off : Nat) (buf : Memory) :
    deliversInterrupt (busEvent d off buf) = false := by
  unfold busEvent; split <;> rfl

@[simp] theorem isBusCall_raiseEvent (irq : IrqState) : isBusCall (raiseEvent irq) = false := by
  cases irq <;> rfl

/-- The event is neither a bus-transfer call nor an interrupt. -/
def isQuiet (e : Event) : Bool := !isBusCall e && !deliversInterrupt e

/-- A quiet event in front of a step's events. -/
theorem CallThenInterrupt.cons_quiet {e : Event} {ev : List Event} (he : isQuiet e = true)
    (h : CallThenInterrupt ev) : CallThenInterrupt (e :: ev) := by
  obtain ⟨hb, hd⟩ : isBusCall e = false ∧ deliversInterrupt e = false := by simpa [isQuiet] using he
  simpa [CallThenInterrupt, hb, hd] using h

theorem CallThenInterrupt.logEvents_append {ev : List Event} (h : CallThenInterrupt ev) (n : Nat) (k : LogKind) :
    CallThenInterrupt (logEvents n k ++ ev) := by
  rcases logEvents_cases n k with hl | hl <;> rw [hl]
  · exact h
  · exact h.cons_quiet rfl

/-- What `log?` adds under a condition keeps a step's events in order. -/
theorem CallThenInterrupt.logWhen_append {ev : List Event} (h : CallThenInterrupt ev) (c : Bool) (n : Nat)
    (k : LogKind) : CallThenInterrupt ((if c then logEvents n k else []) ++ ev) := by
  cases c
  · exact h
  · exact h.logEvents_append n k

/-- A bus-transfer call in front of events without another. -/
theorem CallThenInterrupt.cons_call {e : Event} {ev : List Event} (hd : deliversInterrupt e = false)
    (hev : ev.filter isBusCall = []) (h : CallThenInterrupt ev) : CallThenInterrupt (e :: ev) := by
  obtain ⟨-, hint, hpair⟩ := h
  refine ⟨?_, by simpa [hd] using hint, by simpa [hd] using hpair⟩
  rw [List.filter_cons]
  split <;> simp [hev]

theorem filter_isBusCall_logEvents (n : Nat) (k : LogKind) : (logEvents n k).filter isBusCall = [] := by
  rcases logEvents_cases n k with h | h <;> rw [h] <;> rfl

theorem Appends.of_eq {s t : State} (h : t.trace = s.trace) : Appends s t :=
  ⟨[], by simpa using h, callThenInterrupt_nil⟩

theorem Appends.of_event {s t : State} {e : Event} (h : t.trace = s.trace ++ [e]) : Appends s t :=
  ⟨[e], h, callThenInterrupt_singleton e⟩

theorem Appends.of_log {s t : State} {k : LogKind} (h : t.trace = s.trace ++ logEvents s.draws k) : Appends s t :=
  ⟨_, h, callThenInterrupt_logEvents _ k⟩

/-- What the answer of a call emits: the optional failure log, then the completion interrupt (R217, R218). -/
def landEvents (s : State) : List Event :=
  (if s.busAnswer.ok then [] else logEvents (s.draws + 1) .busTransferFailure) ++ [raiseEvent s.dev.irq]

theorem landed_trace_eq (s : State) : (landed s).trace = s.trace ++ landEvents s := by
  rw [landed_trace, landEvents, List.append_assoc]

theorem callThenInterrupt_landEvents (s : State) : CallThenInterrupt (landEvents s) := by
  unfold landEvents
  split
  · exact callThenInterrupt_singleton _
  · exact (callThenInterrupt_singleton _).logEvents_append _ _

theorem filter_isBusCall_landEvents (s : State) : (landEvents s).filter isBusCall = [] := by
  unfold landEvents
  split <;> simp [filter_isBusCall_logEvents]

/-- The issue phase of a transfer appends the optional mask log and its call, and what a land phase then appends
keeps the order. -/
theorem Appends.of_issued {s t : State} {a : Word} {ev : List Event} (h : t.trace = (issued s a).trace ++ ev)
    (hev : ev.filter isBusCall = []) (hc : CallThenInterrupt ev) : Appends s t := by
  refine ⟨_, ?_, (hc.cons_call (deliversInterrupt_busEvent s.dev.dma (bufOffset a) s.dev.buf) hev).logWhen_append
    (maskedAddr (busSide s.dev.dma) s.dev.dma.mask != busSide s.dev.dma) s.draws .addressMasked⟩
  rw [h, issued_trace]
  simp only [List.append_assoc, List.cons_append, List.nil_append]

theorem execute_appends {s t : State} (h : execute s = .next t) : Appends s t := by
  obtain ⟨-, rfl⟩ | ⟨a, -, -, rfl⟩ | ⟨a, -, -, -, -, rfl⟩ := execute_eq_next h
  · exact .of_eq rfl
  · exact .of_log rfl
  · exact .of_issued (landed_trace_eq _) (filter_isBusCall_landEvents _) (callThenInterrupt_landEvents _)

theorem agentTurn_appends {s t : State} (h : agentTurn s = .next t) : Appends s t := by
  obtain rfl | ⟨-, -, ⟨-, u, hu, rfl⟩ | ⟨-, u, hu, rfl⟩ | ⟨-, -, -, -, rfl⟩ | ⟨-, rfl⟩⟩ := agentTurn_eq_next h
  · exact .of_eq rfl
  · obtain ⟨-, rfl⟩ | ⟨a, -, -, rfl⟩ := issue_eq_noCall hu
    · exact .of_eq rfl
    · exact .of_log rfl
  · obtain ⟨a, -, -, rfl⟩ := issue_eq_call hu
    exact .of_issued (List.append_nil _).symm rfl callThenInterrupt_nil
  · exact ⟨_, landed_trace_eq s, callThenInterrupt_landEvents s⟩
  · exact .of_eq rfl

/-- A lower emits at most the line's level 0, which is no interrupt. -/
theorem callThenInterrupt_lowerEvents_append (irq : IrqState) {ev : List Event} (h : CallThenInterrupt ev) :
    CallThenInterrupt (lowerEvents irq ++ ev) := by
  cases irq with
  | pin raised => exact h.cons_quiet rfl
  | message raised => exact h

/-- A transaction appends nothing, a log, one event, a lower's and the release, or the events of a doorbell's
transfer. -/
theorem exec_appends {i : Instr} {s t : State} (h : exec i s = .next t) : Appends s t := by
  have ht := (exec_eq_next h).2
  cases i with
  | rdUnmapped | rdInvalid | wrUnmapped | wrInvalid => cases ht; exact .of_log rfl
  | wrIrqRaise => obtain ⟨-, rfl⟩ := ht; exact .of_event rfl
  | wrIrqLower | reset =>
    obtain ⟨-, rfl⟩ := ht
    exact ⟨_, by simp, callThenInterrupt_lowerEvents_append s.dev.irq callThenInterrupt_nil⟩
  | wrDmaSrc | wrDmaDst | wrDmaLen | wrDmaCmd =>
    obtain ⟨-, rfl⟩ | ⟨-, rfl⟩ := ht
    · exact .of_eq rfl
    · exact .of_log rfl
  | wrDoorbell =>
    obtain ⟨-, rfl⟩ | ⟨-, -, u, hu, rfl⟩ | ⟨-, -, rfl⟩ := ht
    · exact .of_eq rfl
    · exact (execute_appends hu : Appends (s.setStatus .executing) u)
    · exact .of_eq rfl
  | init => cases ht; exact .of_event rfl
  | finalize =>
    obtain ⟨-, u, rfl, rfl⟩ := ht
    split
    · exact ⟨_, by simp, callThenInterrupt_lowerEvents_append s.dev.irq (callThenInterrupt_singleton .releaseVectors)⟩
    · exact ⟨_, by simp, callThenInterrupt_lowerEvents_append s.dev.irq callThenInterrupt_nil⟩
  | _ => cases ht; exact .of_eq rfl

/-- Settles O51: a transaction, a turn of the agent and the teardown each append their events in that order. -/
theorem eventsOfOneStep : Obligations.EventsOfOneStep := by
  intro s t h
  obtain ⟨rest, ⟨i, hi⟩ | ha | hd⟩ := step_eq_next h
  · exact (exec_appends hi : Appends (s.setInbox rest) t)
  · exact (agentTurn_appends ha : Appends (s.setInbox rest) t)
  · obtain ⟨-, rfl⟩ := teardown_eq_next hd
    exact Appends.of_eq rfl

/-! ### A call that never returns -/

theorem whenAlive_eq_busNeverReturns {s : State} {k : State → Result}
    (h : whenAlive s k = .refused .busNeverReturns) : k s = .refused .busNeverReturns := by
  obtain ⟨-, hk⟩ : Ready s ∧ k s = .refused .busNeverReturns := by simpa using whenAlive_eq_refused h
  exact hk

theorem whenSize_eq_busNeverReturns {s : State} {size : Nat} {k : State → Result}
    (h : whenSize size s k = .refused .busNeverReturns) : k s = .refused .busNeverReturns := by
  obtain ⟨-, hk⟩ : Ready s ∧ k s = .refused .busNeverReturns := by simpa using whenSize_eq_refused h
  exact hk

theorem whenHookAllowed_eq_busNeverReturns {s : State} {k : State → Result}
    (h : whenHookAllowed s k = .refused .busNeverReturns) : k s = .refused .busNeverReturns := by
  have hk := whenAlive_eq_busNeverReturns h
  split at hk
  · cases hk
  · split at hk
    · cases hk
    · exact hk

theorem andThen_returnAck_eq_refused {r : Result} {f : State → State} {q : Refusal}
    (h : andThen r (fun s => returnAck (f s)) = .refused q) : r = .refused q := by
  rcases andThen_eq_refused h with hr | ⟨u, -, hk⟩
  · exact hr
  · exact absurd hk returnAck_ne_refused

theorem readReg_ne_busNeverReturns (i : Fin 4) (size : Nat) (s : State) :
    readReg i size s ≠ .refused .busNeverReturns :=
  fun h => absurd (whenSize_eq_busNeverReturns h) returnData_ne_refused

theorem writeReg_ne_busNeverReturns (i : Fin 4) (v : Word) (size : Nat) (s : State) :
    writeReg i v size s ≠ .refused .busNeverReturns :=
  fun h => absurd (whenSize_eq_busNeverReturns h) returnAck_ne_refused

theorem readSentinel_ne_busNeverReturns (size : Nat) (s : State) :
    readSentinel size s ≠ .refused .busNeverReturns :=
  fun h => absurd (whenSize_eq_busNeverReturns h) returnData_ne_refused

theorem readNowhere_ne_busNeverReturns (size : Nat) (s : State) :
    readNowhere size s ≠ .refused .busNeverReturns :=
  fun h => absurd (whenSize_eq_busNeverReturns h) returnData_ne_refused

theorem writeNowhere_ne_busNeverReturns (size : Nat) (s : State) :
    writeNowhere size s ≠ .refused .busNeverReturns :=
  fun h => absurd (whenSize_eq_busNeverReturns h) returnAck_ne_refused

theorem configure_ne_busNeverReturns (f : DmaConfig → DmaConfig) (size : Nat) (s : State) :
    configure f size s ≠ .refused .busNeverReturns := by
  intro h
  have hk := whenSize_eq_busNeverReturns h
  split at hk <;> exact returnAck_ne_refused hk

theorem execWrIrqRaise_ne_busNeverReturns (v : Word) (size : Nat) (s : State) :
    execWrIrqRaise v size s ≠ .refused .busNeverReturns :=
  fun h => raiseIrq_ne_refused _ _ (andThen_returnAck_eq_refused (f := id) (whenSize_eq_busNeverReturns h))

theorem execWrIrqLower_ne_busNeverReturns (v : Word) (size : Nat) (s : State) :
    execWrIrqLower v size s ≠ .refused .busNeverReturns :=
  fun h => lowerIrq_ne_refused _ _ (andThen_returnAck_eq_refused (f := id) (whenSize_eq_busNeverReturns h))

theorem initAgain_ne_refused (s : State) (q : Refusal) : initAgain s ≠ .refused q := by
  unfold initAgain; split <;> nofun

theorem execInit_ne_busNeverReturns (s : State) : execInit s ≠ .refused .busNeverReturns := by
  intro h
  unfold execInit at h
  split at h
  · exact returnAck_ne_refused h
  · exact initAgain_ne_refused _ _ (whenAlive_eq_busNeverReturns h)
  · exact initAgain_ne_refused _ _ (whenAlive_eq_busNeverReturns h)

theorem execReset_ne_busNeverReturns (s : State) : execReset s ≠ .refused .busNeverReturns :=
  fun h => lowerIrq_ne_refused _ _ (andThen_returnAck_eq_refused (f := id) (whenHookAllowed_eq_busNeverReturns h))

theorem irqFinalize_ne_refused (s : State) (q : Refusal) : irqFinalize s ≠ .refused q := by
  intro h
  rcases andThen_eq_refused h with hl | ⟨u, -, hk⟩
  · exact lowerIrq_ne_refused _ _ hl
  · split at hk <;> cases hk

theorem execFinalize_ne_busNeverReturns (s : State) : execFinalize s ≠ .refused .busNeverReturns :=
  fun h => irqFinalize_ne_refused _ _ (andThen_returnAck_eq_refused (whenHookAllowed_eq_busNeverReturns h))

theorem ringSerialized_of_idle {s : State} (h : s.dev.status = .idle) :
    ringSerialized s = andThen (execute (s.setStatus .executing)) fun u => returnAck (u.setStatus .idle) := by
  rw [ringSerialized, casStatus_idle, if_pos h]

theorem ringSerialized_of_busy {s : State} (h : s.dev.status ≠ .idle) : ringSerialized s = returnAck s := by
  rw [ringSerialized, casStatus_idle, if_neg h]

theorem ringAccept_of_idle {s : State} (h : s.dev.status = .idle) :
    ringAccept s = .next (((s.setStatus .executing).setInflight (some .started)).setReply none) := by
  rw [ringAccept, casStatus_idle, if_pos h]

theorem ringAccept_of_busy {s : State} (h : s.dev.status ≠ .idle) : ringAccept s = returnAck s := by
  rw [ringAccept, casStatus_idle, if_neg h]

/-- A doorbell is refused so only where it won the swap, accesses are serialized and its transfer's call hangs. -/
theorem execWrDoorbell_eq_busNeverReturns {v : Word} {size : Nat} {s : State}
    (h : execWrDoorbell v size s = .refused .busNeverReturns) :
    s.cfg.serialized = true ∧ s.dev.status = .idle ∧
      execute (s.setStatus .executing) = .refused .busNeverReturns := by
  have hk := whenSize_eq_busNeverReturns h
  cases hser : s.cfg.serialized with
  | false =>
    rw [if_neg (by simp [hser])] at hk
    by_cases hidle : s.dev.status = .idle
    · cases (ringAccept_of_idle hidle).symm.trans hk
    · cases (ringAccept_of_busy hidle).symm.trans hk
  | true =>
    rw [if_pos hser] at hk
    by_cases hidle : s.dev.status = .idle
    · rw [ringSerialized_of_idle hidle] at hk
      exact ⟨rfl, hidle, andThen_returnAck_eq_refused hk⟩
    · cases (ringSerialized_of_busy hidle).symm.trans hk

/-- The doorbell is the only transaction that a call without a return refuses. -/
theorem exec_eq_busNeverReturns {i : Instr} {s : State} (h : exec i s = .refused .busNeverReturns) :
    ∃ v z, i = .wrDoorbell v z := by
  cases i with
  | wrDoorbell v z => exact ⟨v, z, rfl⟩
  | rdReg0 | rdReg1 | rdReg2 | rdReg3 => exact absurd h (readReg_ne_busNeverReturns _ _ s)
  | rdWo20 | rdWo28 | rdWo30 | rdWo38 | rdWo40 | rdWo48 | rdWo50 =>
    exact absurd h (readSentinel_ne_busNeverReturns _ s)
  | rdUnmapped | rdInvalid => exact absurd h (readNowhere_ne_busNeverReturns _ s)
  | wrReg0 | wrReg1 | wrReg2 | wrReg3 => exact absurd h (writeReg_ne_busNeverReturns _ _ _ s)
  | wrUnmapped | wrInvalid => exact absurd h (writeNowhere_ne_busNeverReturns _ s)
  | wrDmaSrc v z => exact absurd h (configure_ne_busNeverReturns (fun d => { d with src := v }) z s)
  | wrDmaDst v z => exact absurd h (configure_ne_busNeverReturns (fun d => { d with dst := v }) z s)
  | wrDmaLen v z => exact absurd h (configure_ne_busNeverReturns (fun d => { d with len := v }) z s)
  | wrDmaCmd v z => exact absurd h (configure_ne_busNeverReturns (fun d => { d with cmd := v }) z s)
  | wrIrqRaise v z => exact absurd h (execWrIrqRaise_ne_busNeverReturns v z s)
  | wrIrqLower v z => exact absurd h (execWrIrqLower_ne_busNeverReturns v z s)
  | init => exact absurd h (execInit_ne_busNeverReturns s)
  | reset => exact absurd h (execReset_ne_busNeverReturns s)
  | finalize => exact absurd h (execFinalize_ne_busNeverReturns s)

/-- The agent is refused only in its land phase, where the call hangs. -/
theorem agentTurn_eq_refused {s : State} {q : Refusal} (h : agentTurn s = .refused q) :
    s.cfg.serialized = false ∧ s.dev.inflight = some .awaitBus ∧ s.busReturns = false := by
  unfold agentTurn at h
  split at h
  · cases h
  · cases h
  · split at h
    · cases h
    · split at h
      · cases h
      · rename_i hser
        unfold agentPhase at h
        split at h
        · cases h
        · unfold agentIssue at h
          split at h <;> cases h
        · rename_i hin
          rcases andThen_eq_refused h with hl | ⟨u, -, hk⟩
          · exact ⟨by simpa using hser, hin, (land_eq_refused hl).2⟩
          · cases hk
        · cases h

/-- A serialized doorbell that wins the swap runs its transfer in its own step (R210). -/
theorem execWrDoorbell_of_serialized {s : State} {size : Nat} (hr : Ready s) (hs : sizeOk size = true)
    (hc : s.cfg.serialized = true) (hi : s.dev.status = .idle) (v : Word) :
    exec (.wrDoorbell v size) s =
      andThen (execute (s.setStatus .executing)) fun u => returnAck (u.setStatus .idle) := by
  show execWrDoorbell v size s = _
  rw [execWrDoorbell, whenSize_of_ready hr hs, if_pos hc, ringSerialized_of_idle hi]

/-- `t` has the doorbell in flight, the buffer and the script of `s`. -/
def KeepsTransfer (s t : State) : Prop :=
  t.dev.inflight = s.dev.inflight ∧ t.dev.status = s.dev.status ∧ t.dev.buf = s.dev.buf ∧ t.env = s.env

/-- No transaction touches a transfer in flight (R331): hooks are barred and the doorbell is dropped. -/
theorem exec_keepsTransfer {i : Instr} {s t : State} (hl : s.life ≠ .absent) (hin : s.dev.inflight ≠ none)
    (hx : s.dev.status = .executing) (h : exec i s = .next t) : KeepsTransfer s t := by
  obtain ⟨htaken, ht⟩ := exec_eq_next h
  cases i with
  | init => exact absurd htaken hl
  | reset | finalize => exact absurd htaken.2.2 hin
  | wrIrqRaise | wrIrqLower =>
    obtain ⟨-, rfl⟩ := ht
    simp [KeepsTransfer]
  | wrDmaSrc | wrDmaDst | wrDmaLen | wrDmaCmd => obtain ⟨-, rfl⟩ | ⟨-, rfl⟩ := ht <;> simp [KeepsTransfer]
  | wrDoorbell =>
    obtain ⟨-, rfl⟩ | ⟨hidle, -⟩ | ⟨hidle, -⟩ := ht
    · simp [KeepsTransfer]
    · simp [hx] at hidle
    · simp [hx] at hidle
  | _ => cases ht; simp [KeepsTransfer]

/-- The agent does not move past a call that never returns. -/
theorem agentTurn_of_hang {s t : State} (hin : s.dev.inflight = some .awaitBus) (hb : s.busReturns = false)
    (h : agentTurn s = .next t) : t = s := by
  obtain rfl | ⟨-, -, ⟨hin', -⟩ | ⟨hin', -⟩ | ⟨-, -, -, hb', -⟩ | ⟨hin', -⟩⟩ := agentTurn_eq_next h
  · rfl
  · cases hin.symm.trans hin'
  · cases hin.symm.trans hin'
  · cases hb.symm.trans hb'
  · cases hin.symm.trans hin'

/-- While a call hangs, every step leaves its doorbell in flight. -/
theorem step_keepsTransfer {s t : State} (hl : s.life ≠ .absent) (hin : s.dev.inflight = some .awaitBus)
    (hx : s.dev.status = .executing) (hb : s.busReturns = false) (h : step s = .next t) : KeepsTransfer s t := by
  obtain ⟨rest, ⟨i, hi⟩ | ha | hd⟩ := step_eq_next h
  · exact (exec_keepsTransfer hl (by simp [hin]) hx hi : KeepsTransfer (s.setInbox rest) t)
  · obtain rfl := agentTurn_of_hang (s := s.setInbox rest) hin hb ha
    exact ⟨rfl, rfl, rfl, rfl⟩
  · obtain ⟨-, rfl⟩ := teardown_eq_next hd
    exact ⟨rfl, rfl, rfl, rfl⟩

/-- Settles O56: the land phase alone has no step, and while its call hangs nothing else ends the transfer. -/
theorem hungBusCallsNeverComplete : Obligations.HungBusCallsNeverComplete := by
  refine ⟨fun s v z a hr hz hidle hser ha hf hb => ?_, fun s hr hser hin hb => ?_,
    fun s t hinv hl hin hb h => ?_, fun s i h => ?_, fun s => agentTurn_eq_refused⟩
  · rw [execWrDoorbell_of_serialized hr hz hser hidle, execute_of_hang (s := s.setStatus .executing) ha hf hb,
      andThen_refused]
  · rw [agentTurn_of_awaitBus hr hser hin, agentLand, land_of_hang hb, andThen_refused]
  · have hne : s.life ≠ .absent := by simp [hl]
    have hx : s.dev.status = .executing := (hinv.device hne).inflight.mpr (by simp [hin])
    obtain ⟨hin', hst, hbuf, henv⟩ := step_keepsTransfer hne hin hx hb h
    exact ⟨hin'.trans hin, hst.trans hx, hbuf, (busReturns_congr henv).trans hb⟩
  · obtain ⟨v, z, rfl⟩ := exec_eq_busNeverReturns h
    obtain ⟨hser, hidle, hk⟩ := execWrDoorbell_eq_busNeverReturns (v := v) h
    obtain ⟨-, hb, hfits⟩ := execute_eq_refused hk
    exact ⟨⟨v, z, rfl⟩, hser, hidle, hb, hfits⟩

/-! ### One step or four phases

The phases of a doorbell run on a State that differs from that of the one-step doorbell in the regime, in the phase
recorded and in the reply. The transfer reads and writes none of the three. -/

/-- `s` under another regime, with another phase in flight and another reply. -/
def inRegime (b : Bool) (p : Option DmaPhase) (r : Option Reply) (s : State) : State :=
  ((withSerialized b s).setInflight p).setReply r

/-- The land phase of a transfer that fits ends in the raise, or in its fault (R218, R276). -/
theorem land_of_landFits {s : State} (h : LandFits s.dev.dma) (hb : s.busReturns = true) :
    land s = if isMessage s.dev.irq && s.dev.released then .fault .irqAfterRelease else .next (landed s) := by
  rw [land_of_returns hb]
  simp only [landAnswer]
  rw [landBuffer_of_fits (by simpa using h), andThen_next]
  show raiseIrq 0 _ = _
  rw [raiseIrq_zero]
  simp [landed]

section
variable (b : Bool) (p : Option DmaPhase) (r : Option Reply)

theorem inRegime_logWhen (s : State) (c : Bool) (k : LogKind) :
    (inRegime b p r s).logWhen c k = inRegime b p r (s.logWhen c k) := by
  cases c <;> rfl

theorem issued_inRegime (s : State) (a : Word) : issued (inRegime b p r s) a = inRegime b p r (issued s a) := by
  show ((inRegime b p r s).logWhen _ _).emit _ = _
  rw [inRegime_logWhen]
  rfl

theorem landed_inRegime (s : State) : landed (inRegime b p r s) = inRegime b p r (landed s) := by
  show ((((inRegime b p r s.takeAnswer).logWhen _ _).setBuf _).setIrq _).emit _ = _
  rw [inRegime_logWhen]
  rfl

theorem land_inRegime {s : State} (h : LandFits s.dev.dma) :
    land (inRegime b p r s) = andThen (land s) fun t => .next (inRegime b p r t) := by
  cases hb : s.busReturns with
  | false => rw [land_of_hang hb, land_of_hang (s := inRegime b p r s) hb, andThen_refused]
  | true =>
    rw [land_of_landFits h hb, land_of_landFits (s := inRegime b p r s) h hb, landed_inRegime]
    show (if isMessage s.dev.irq && s.dev.released then _ else _) = _
    split <;> rfl

/-- What the issue phase and the land phase do together, whatever the regime, the phase and the reply. -/
theorem execute_inRegime (s : State) :
    execute (inRegime b p r s) = andThen (execute s) fun t => .next (inRegime b p r t) := by
  unfold execute
  cases hd : deviceSide s.dev.dma with
  | none => rw [issue_of_no_command hd, issue_of_no_command (s := inRegime b p r s) hd]; rfl
  | some a =>
    cases hw : inWindow a with
    | false => rw [issue_of_out_of_window hd hw, issue_of_out_of_window (s := inRegime b p r s) hd hw]; rfl
    | true =>
      rcases Nat.lt_or_ge Config.areaSize (bufOffset a + s.dev.dma.len.toNat) with ho | ho
      · rw [issue_of_overrun hd hw ho, issue_of_overrun (s := inRegime b p r s) hd hw ho]; rfl
      · have hf : TransferFits a s.dev.dma.len := ⟨hw, ho⟩
        rw [issue_of_fits hd hf, issue_of_fits (s := inRegime b p r s) hd hf, issued_inRegime]
        exact land_inRegime b p r (by simpa using LandFits.of_fits hd hf)

end

/-- The land phase does not look at the phase recorded. -/
theorem land_setInflight {s : State} (h : LandFits s.dev.dma) (p : Option DmaPhase) :
    land (s.setInflight p) = andThen (land s) fun t => .next (t.setInflight p) := by
  have hs : s.setInflight p = inRegime s.cfg.serialized p s.reply s := rfl
  rw [hs, land_inRegime _ _ _ h]
  cases hl : land s with
  | fault f => rfl
  | refused q => rfl
  | next t =>
    obtain ⟨-, -, -, rfl⟩ := land_eq_next hl
    rw [andThen_next, andThen_next, ← landed_cfg s, ← landed_reply s]
    rfl

/-- The last phase as the doorbell's end: status Idle, nothing in flight, the write acknowledged. -/
def rung (t : State) : State := ((t.setStatus .idle).setInflight none).setReply (some .ack)

theorem agentTurns_of_none {s : State} (h : Ready s) (hi : s.dev.inflight = none) (n : Nat) :
    agentTurns n s = .next s := by
  induction n with
  | zero => rfl
  | succ n ih => rw [agentTurns, agentTurn_of_none h hi, andThen_next, ih]

/-- From phase Raised one turn ends the doorbell, and the agent has nothing to do in the turns that follow. -/
theorem agentTurns_of_raised {s : State} (h : Ready s) (hs : s.cfg.serialized = false)
    (hi : s.dev.inflight = some .raised) (n : Nat) : agentTurns (n + 1) s = .next (rung s) := by
  rw [agentTurns, agentTurn_of_raised h hs hi, andThen_next]
  exact agentTurns_of_none (s := rung s) h rfl n

/-- From phase AwaitBus two turns are the land phase and the end. -/
theorem agentTurns_of_awaitBus {s : State} (h : Ready s) (hs : s.cfg.serialized = false)
    (hi : s.dev.inflight = some .awaitBus) :
    agentTurns 2 s = andThen (land s) fun t => .next (rung t) := by
  rw [agentTurns, agentTurn_of_awaitBus h hs hi, agentLand]
  cases hl : land s with
  | fault f => rfl
  | refused q => rfl
  | next t =>
    obtain ⟨-, -, -, rfl⟩ := land_eq_next hl
    exact agentTurns_of_raised (s := (landed s).setInflight (some .raised)) (by simpa [Ready] using h)
      (by simpa using hs) rfl 0

/-- From phase Started three turns run the transfer and end the doorbell. -/
theorem agentTurns_of_started {s : State} (h : Ready s) (hs : s.cfg.serialized = false)
    (hi : s.dev.inflight = some .started) :
    agentTurns 3 s = andThen (execute s) fun t => .next (rung t) := by
  rw [agentTurns, agentTurn_of_started h hs hi, agentIssue, execute]
  cases hu : issue s with
  | fault f => rfl
  | noCall u =>
    have hkeep : u.life = s.life ∧ u.dev = s.dev ∧ u.cfg = s.cfg := by
      obtain ⟨-, rfl⟩ | ⟨a, -, -, rfl⟩ := issue_eq_noCall hu <;> exact ⟨rfl, rfl, rfl⟩
    obtain ⟨hlife, hdev, hcfg⟩ := hkeep
    exact agentTurns_of_raised (s := u.setInflight (some .raised)) (by simpa [Ready, hlife, hdev] using h)
      (by simpa [hcfg] using hs) rfl 1
  | call u =>
    obtain ⟨a, hd, hf, rfl⟩ := issue_eq_call hu
    rw [andThen_next, agentTurns_of_awaitBus (by simpa [Ready] using h) (by simpa using hs) rfl,
      land_setInflight (by simpa using LandFits.of_fits hd hf)]
    show _ = andThen (land (issued s a)) fun t => .next (rung t)
    cases land (issued s a) <;> rfl

theorem execute_keepsInflight {s t : State} (h : execute s = .next t) : t.dev.inflight = s.dev.inflight := by
  obtain ⟨-, rfl⟩ | ⟨a, -, -, rfl⟩ | ⟨a, -, -, -, -, rfl⟩ := execute_eq_next h <;> simp

/-- Where nothing is recorded in flight, the end of the phases is the end of the one step, in the other regime. -/
theorem rung_inRegime {t : State} (h : t.dev.inflight = none) (b : Bool) (p : Option DmaPhase) (r : Option Reply) :
    rung (inRegime b p r t) = withSerialized b ((t.setStatus .idle).setReply (some .ack)) := by
  have ht : t.setInflight none = t := by rw [← h]; rfl
  show withSerialized b (((t.setInflight none).setStatus .idle).setReply (some .ack)) = _
  rw [ht]

/-- The gate of an access does not look at the regime: what follows it decides whether two regimes agree. -/
theorem andThen_whenSize_withSerialized {s : State} {size : Nat} {k k' f f' : State → Result} {b b' : Bool}
    (h : Ready s → andThen (k (withSerialized b s)) f = andThen (k' (withSerialized b' s)) f') :
    andThen (whenSize size (withSerialized b s) k) f = andThen (whenSize size (withSerialized b' s) k') f' := by
  cases hl : s.life with
  | absent =>
    rw [whenSize, whenSize, whenAlive_of_absent (s := withSerialized b s) hl,
      whenAlive_of_absent (s := withSerialized b' s) hl]
    rfl
  | tornDown =>
    rw [whenSize, whenSize, whenAlive_of_tornDown (s := withSerialized b s) hl,
      whenAlive_of_tornDown (s := withSerialized b' s) hl]
    rfl
  | present =>
    cases hf : s.dev.fault with
    | some r =>
      rw [whenSize, whenSize, whenAlive_of_fault (s := withSerialized b s) hl hf,
        whenAlive_of_fault (s := withSerialized b' s) hl hf]
      rfl
    | none =>
      have hr : Ready s := ⟨hl, hf⟩
      cases hz : sizeOk size with
      | false =>
        rw [whenSize_of_bad_size (s := withSerialized b s) hr hz, whenSize_of_bad_size (s := withSerialized b' s) hr hz]
        rfl
      | true =>
        rw [whenSize_of_ready (s := withSerialized b s) hr hz, whenSize_of_ready (s := withSerialized b' s) hr hz]
        exact h hr

/-- An accepted doorbell and its three turns are the one-step doorbell in the other regime. -/
theorem phases_eq_ringSerialized {s : State} (hr : Ready s) (hin : s.dev.inflight = none) :
    andThen (ringAccept (withSerialized false s)) (agentTurns 3) =
      andThen (ringSerialized (withSerialized true s)) fun t => .next (withSerialized false t) := by
  by_cases hidle : s.dev.status = .idle
  · have haccept : ringAccept (withSerialized false s) =
        .next (inRegime false (some .started) none ((withSerialized true s).setStatus .executing)) :=
      ringAccept_of_idle hidle
    have hready :
        Ready (inRegime false (some .started) none ((withSerialized true s).setStatus .executing)) := hr
    rw [haccept, andThen_next, agentTurns_of_started hready rfl rfl, execute_inRegime,
      ringSerialized_of_idle (s := withSerialized true s) hidle]
    cases hx : execute ((withSerialized true s).setStatus .executing) with
    | fault f => rfl
    | refused q => rfl
    | next t => exact congrArg Host.Outcome.next (rung_inRegime ((execute_keepsInflight hx).trans hin) _ _ _)
  · rw [ringAccept_of_busy (s := withSerialized false s) hidle,
      ringSerialized_of_busy (s := withSerialized true s) hidle]
    exact agentTurns_of_none (s := (withSerialized false s).setReply (some .ack)) hr hin 3

/-- Settles O35: behind the gate, which both regimes pass alike, three turns carry out what the one step does. -/
theorem serializedDoorbellIsItsPhases : Obligations.SerializedDoorbellIsItsPhases := by
  intro s v z hin
  exact andThen_whenSize_withSerialized fun hr => phases_eq_ringSerialized hr hin

end Sys2Proof.Machine
end

section
/-! PROOFS of the family 10_state: what each State operation does to the invariant and, one transaction and one phase
of the agent at a time, that a step keeps it; then registers, buffer form, status, hooks and sticky faults. -/

namespace Sys2Proof.Machine

/-! ### Writing the value a field already has -/

theorem State.setStatus_self {s : State} {x : DmaStatus} (h : s.dev.status = x) : s.setStatus x = s := by
  subst h; rfl

theorem State.setReleased_self {s : State} {x : Bool} (h : s.dev.released = x) : s.setReleased x = s := by
  subst h; rfl

/-! ### A transfer does not look at the status -/

theorem issued_setStatus (s : State) (x : DmaStatus) (a : Word) :
    issued (s.setStatus x) a = (issued s a).setStatus x := by
  simp only [issued, State.setStatus_dma, State.setStatus_buf]
  cases maskedAddr (busSide s.dev.dma) s.dev.dma.mask != busSide s.dev.dma <;> rfl

theorem landed_setStatus (s : State) (x : DmaStatus) : landed (s.setStatus x) = (landed s).setStatus x := by
  have h : (s.setStatus x).busAnswer = s.busAnswer := rfl
  simp only [landed, h]
  cases s.busAnswer.ok <;> rfl

/-- A serialized doorbell's Idle, Executing, Idle around its transfer is the transfer with status left alone. -/
theorem landed_issued_setStatus {s : State} {x : DmaStatus} (h : s.dev.status = x) (a : Word) (y : DmaStatus) :
    (landed (issued (s.setStatus y) a)).setStatus x = landed (issued s a) := by
  rw [issued_setStatus, landed_setStatus]
  show (landed (issued s a)).setStatus x = _
  exact State.setStatus_self (by simpa using h)

end Sys2Proof.Machine

namespace Sys2Proof

open Machine

/-! ### The line level of a trace -/

/-- The last event that drives the line decides. -/
theorem lineLevel_cons (e : Event) (rest : List Event) :
    lineLevel (e :: rest) = (lineLevel rest).or (lineLevel [e]) := by
  show (match lineLevel rest with | some b => some b | none => lineLevel [e]) = _
  cases lineLevel rest <;> rfl

theorem lineLevel_append (tr ev : List Event) : lineLevel (tr ++ ev) = (lineLevel ev).or (lineLevel tr) := by
  induction tr with
  | nil => simp [lineLevel]
  | cons e rest ih =>
    rw [List.cons_append, lineLevel_cons e (rest ++ ev), ih, lineLevel_cons e rest, Option.or_assoc]

@[simp] theorem lineLevel_queryMsi : lineLevel [.queryMsi] = none := rfl

@[simp] theorem lineLevel_releaseVectors : lineLevel [.releaseVectors] = none := rfl

@[simp] theorem lineLevel_logEvents (n : Nat) (k : LogKind) : lineLevel (logEvents n k) = none := by
  rcases logEvents_cases n k with h | h <;> rw [h] <;> rfl

@[simp] theorem lineLevel_busEvent (d : DmaConfig) (off : Nat) (buf : Memory) :
    lineLevel [busEvent d off buf] = none := by
  unfold busEvent; split <;> rfl

/-- R267: where the line has been driven its level is the pin flag. -/
def LineShows (irq : IrqState) (tr : List Event) : Prop :=
  ∀ raised, irq = .pin raised → ∀ l, lineLevel tr = some l → l = raised

theorem lineShows_raised (irq : IrqState) (tr : List Event) :
    LineShows (irqRaised irq) (tr ++ [raiseEvent irq]) := by
  intro raised hirq l hl
  cases irq with
  | pin b => cases hirq; simpa [lineLevel_append, raiseEvent, lineLevel, eq_comm] using hl
  | message v => cases hirq

theorem lineShows_lowered (irq : IrqState) (tr : List Event) :
    LineShows (irqLowered irq) (tr ++ lowerEvents irq) := by
  intro raised hirq l hl
  cases irq with
  | pin b => cases hirq; simpa [lineLevel_append, lowerEvents, lineLevel, eq_comm] using hl
  | message v => cases hirq

/-! ### The rules of a Device, field by field -/

/-- R266: no message vector but 0 is raised. -/
def OnlyVectorZero (irq : IrqState) : Prop :=
  ∀ raised, irq = .message raised → ∀ v, 0 < v → vectorFlag raised v = false

/-- Writing the flag of vector 0 leaves the other vectors as they are. -/
theorem OnlyVectorZero.set_zero {raised : Vector Bool 32} (h : OnlyVectorZero (.message raised)) (b : Bool) :
    OnlyVectorZero (.message (setVectorFlag raised 0 b)) := by
  intro r hr v hv
  cases hr
  rw [vectorFlag_set raised (by omega) b v, if_neg (by omega)]
  exact h raised rfl v hv

theorem OnlyVectorZero.raised {irq : IrqState} (h : OnlyVectorZero irq) : OnlyVectorZero (irqRaised irq) := by
  cases irq with
  | pin b => exact nofun
  | message v => exact h.set_zero true

theorem OnlyVectorZero.lowered {irq : IrqState} (h : OnlyVectorZero irq) : OnlyVectorZero (irqLowered irq) := by
  cases irq with
  | pin b => exact nofun
  | message v => exact h.set_zero false

section
variable {cfg : Cfg} {d : Device}

/-- Neither the registers nor the buffer stand in a rule of the Device. -/
theorem DeviceInv.setRegBuf (h : DeviceInv cfg d) (reg : Vector Word 4) (buf : Memory) :
    DeviceInv cfg { d with reg := reg, buf := buf } :=
  ⟨h.mask, h.mode, h.inflight, h.serialized, h.released, h.vectors, h.awaited, h.fault⟩

theorem DeviceInv.setIrq (h : DeviceInv cfg d) {irq : IrqState} (hm : isMessage irq = isMessage d.irq)
    (hv : OnlyVectorZero irq) : DeviceInv cfg { d with irq := irq } :=
  ⟨h.mask, hm.trans h.mode, h.inflight, h.serialized, by simpa [hm] using h.released, hv, h.awaited, h.fault⟩

theorem DeviceInv.inflight_eq_none (h : DeviceInv cfg d) (hx : d.status ≠ .executing) : d.inflight = none :=
  not_not.mp (hx ∘ h.inflight.mpr)

/-- With nothing in flight a Device that has not been finalized is Idle (R57). -/
theorem DeviceInv.status_eq_idle (h : DeviceInv cfg d) (ho : d.status ≠ .off) (hin : d.inflight = none) :
    d.status = .idle := by
  cases hst : d.status with
  | idle => rfl
  | executing => exact absurd hin (h.inflight.mp hst)
  | off => exact absurd hst ho

/-- Before `finalize` the vectors are the Device's (R55). -/
theorem DeviceInv.released_eq_false (h : DeviceInv cfg d) (ho : d.status ≠ .off) : d.released = false :=
  Bool.eq_false_iff.mpr fun hr => ho (h.released.mp hr).1

/-- The configuration of an Idle Device may change in all but the mask: no transfer awaits its answer. -/
theorem DeviceInv.setDma (h : DeviceInv cfg d) (hi : d.status = .idle) {dma : DmaConfig}
    (hm : dma.mask = d.dma.mask) : DeviceInv cfg { d with dma := dma } := by
  have hnone := h.inflight_eq_none (by simp [hi])
  exact ⟨hm.trans h.mask, h.mode, h.inflight, h.serialized, h.released, h.vectors,
    fun hin => (nomatch hnone.symm.trans hin), h.fault⟩

/-- A doorbell is accepted (R330). -/
theorem DeviceInv.accept (h : DeviceInv cfg d) (hi : d.status = .idle) (hser : cfg.serialized = false) :
    DeviceInv cfg { d with status := .executing, inflight := some .started } :=
  ⟨h.mask, h.mode, by simp, by simp [hser], by simp [h.released_eq_false (by simp [hi])], h.vectors, nofun, h.fault⟩

/-- The doorbell in flight goes on to another phase (R330). -/
theorem DeviceInv.setPhase (h : DeviceInv cfg d) (hin : d.inflight ≠ none) {p : DmaPhase}
    (ha : AwaitedFits { d with inflight := some p }) : DeviceInv cfg { d with inflight := some p } :=
  ⟨h.mask, h.mode, by simp [h.inflight.mpr hin], fun hser => absurd (h.serialized hser) hin, h.released, h.vectors,
    ha, h.fault⟩

/-- The doorbell in flight ends (R330). -/
theorem DeviceInv.finish (h : DeviceInv cfg d) (hin : d.inflight ≠ none) :
    DeviceInv cfg { d with status := .idle, inflight := none } :=
  ⟨h.mask, h.mode, by simp, fun _ => rfl, by simp [h.released_eq_false (by simp [h.inflight.mpr hin])], h.vectors,
    nofun, h.fault⟩

/-- An Idle Device is switched Off, and releases its vectors exactly in message mode (R362). -/
theorem DeviceInv.switchOff (h : DeviceInv cfg d) (hi : d.status = .idle) :
    DeviceInv cfg { d with status := .off, released := isMessage d.irq } := by
  have hnone := h.inflight_eq_none (by simp [hi])
  exact ⟨h.mask, h.mode, by simp [hnone], h.serialized, by simp, h.vectors, h.awaited, h.fault⟩

end

/-- R350: the Device `init` makes meets the rules. -/
theorem deviceInv_initial (cfg : Cfg) : DeviceInv cfg (Device.initial cfg) where
  mask := rfl
  mode := by cases h : cfg.msiNegotiated <;> simp [Device.initial, h, isMessage]
  inflight := by simp [Device.initial]
  serialized _ := rfl
  released := by simp [Device.initial]
  vectors raised h v _ := by
    cases hm : cfg.msiNegotiated <;> simp only [Device.initial, hm] at h <;> cases h
    exact vectorFlag_replicate v
  awaited := nofun
  fault := rfl

/-! ### The invariant under each State operation -/

section
variable {s t : State}

/-- The invariant speaks of the parameters, the life, the Device and the line's level alone. -/
theorem Inv.congr (h : Inv s) (hcfg : t.cfg = s.cfg) (hlife : t.life = s.life) (hdev : t.dev = s.dev)
    (htrace : lineLevel t.trace = lineLevel s.trace) : Inv t :=
  ⟨hdev ▸ h.buf, hcfg ▸ hlife ▸ hdev ▸ h.device, htrace ▸ hlife ▸ hdev ▸ h.line, htrace ▸ hlife ▸ h.quiet⟩

/-- A change of the Device that leaves the interrupt state and the trace alone. -/
theorem Inv.setDev (h : Inv s) {d : Device} (hbuf : d.buf.wf = true)
    (hdev : DeviceInv s.cfg s.dev → DeviceInv s.cfg d) (hirq : d.irq = s.dev.irq) : Inv (s.setDev d) :=
  ⟨hbuf, fun hl => hdev (h.device hl), fun hl raised hr => h.line hl raised (hirq ▸ hr), h.quiet⟩

theorem Inv.setReply (h : Inv s) (r : Option Reply) : Inv (s.setReply r) := h.congr rfl rfl rfl rfl

theorem Inv.setInbox (h : Inv s) (q : List Turn) : Inv (s.setInbox q) := h.congr rfl rfl rfl rfl

theorem Inv.takeAnswer (h : Inv s) : Inv s.takeAnswer := h.congr rfl rfl rfl rfl

/-- An event that does not drive the line. -/
theorem Inv.emit (h : Inv s) {e : Event} (he : lineLevel [e] = none) : Inv (s.emit e) :=
  h.congr rfl rfl rfl (by simp [lineLevel_append, he])

theorem Inv.logPoint (h : Inv s) (k : LogKind) : Inv (s.logPoint k) :=
  h.congr rfl rfl rfl (by simp [lineLevel_append])

theorem Inv.logWhen (h : Inv s) (c : Bool) (k : LogKind) : Inv (s.logWhen c k) := by
  cases c
  · exact h
  · exact h.logPoint k

theorem Inv.setReg (h : Inv s) (i : Fin 4) (v : Word) : Inv (s.setReg i v) :=
  h.setDev h.buf (fun hd => hd.setRegBuf _ _) rfl

theorem Inv.clearRegs (h : Inv s) : Inv s.clearRegs := h.setDev h.buf (fun hd => hd.setRegBuf _ _) rfl

theorem Inv.setBuf (h : Inv s) {buf : Memory} (hb : buf.wf = true) : Inv (s.setBuf buf) :=
  h.setDev hb (fun hd => hd.setRegBuf _ _) rfl

theorem Inv.setDma (h : Inv s) (hi : s.dev.status = .idle) {dma : DmaConfig} (hm : dma.mask = s.dev.dma.mask) :
    Inv (s.setDma dma) :=
  h.setDev h.buf (fun hd => hd.setDma hi hm) rfl

theorem Inv.setPhase (h : Inv s) (hin : s.dev.inflight ≠ none) {p : DmaPhase}
    (ha : AwaitedFits { s.dev with inflight := some p }) : Inv (s.setInflight (some p)) :=
  h.setDev h.buf (fun hd => hd.setPhase hin ha) rfl

theorem Inv.raised (h : Inv s) (hl : s.life ≠ .absent) :
    Inv ((s.setIrq (irqRaised s.dev.irq)).emit (raiseEvent s.dev.irq)) where
  buf := h.buf
  device := fun hl => (h.device hl).setIrq (isMessage_irqRaised _) (OnlyVectorZero.raised (h.device hl).vectors)
  line := fun _ => lineShows_raised _ _
  quiet := fun ha => absurd ha hl

theorem Inv.lowered (h : Inv s) (hl : s.life ≠ .absent) : Inv (lowered s) where
  buf := h.buf
  device := fun hl => (h.device hl).setIrq (isMessage_irqLowered _) (OnlyVectorZero.lowered (h.device hl).vectors)
  line := fun _ => lineShows_lowered _ _
  quiet := fun ha => absurd ha hl

theorem Inv.issued (h : Inv s) (a : Word) : Inv (issued s a) :=
  (h.logWhen _ _).emit (lineLevel_busEvent _ _ _)

theorem Inv.landed (h : Inv s) (hl : s.life ≠ .absent) (hf : LandFits s.dev.dma) : Inv (landed s) := by
  have hlog := h.takeAnswer.logWhen (!s.busAnswer.ok) .busTransferFailure
  have hbuf := hlog.setBuf (wf_landedBuf hf s.busAnswer s.draws h.buf)
  simpa [Machine.landed] using hbuf.raised (by simpa using hl)

theorem Inv.dmaReset (h : Inv s) (hi : s.dev.status = .idle) : Inv (dmaReset s) := by
  show Inv (((s.setStatus .idle).setDma _).setBuf [])
  rw [State.setStatus_self hi]
  exact (h.setDma hi (dma := DmaConfig.zeroed s.dev.dma.mask) rfl).setBuf Memory.wf_nil

/-- The engine of an Idle Device is finalized, its vectors released exactly in message mode (R231, R275). -/
theorem Inv.dmaFinalize (h : Inv s) (hi : s.dev.status = .idle) :
    Inv (dmaFinalize (s.setReleased (isMessage s.dev.irq))) :=
  (h.dmaReset hi).setDev (d := { (Machine.dmaReset s).dev with status := .off, released := isMessage s.dev.irq })
    (h.dmaReset hi).buf (fun hd => hd.switchOff rfl) rfl

end

/-! ### The invariant under each step -/

section
variable {s t : State}

/-- The transfer of a serialized doorbell, with status back at Idle (R210). -/
theorem execute_keepsInv (h : Inv s) (hl : s.life ≠ .absent) (hi : s.dev.status = .idle)
    (hx : execute (s.setStatus .executing) = .next t) : Inv (t.setStatus .idle) := by
  obtain ⟨-, rfl⟩ | ⟨a, -, -, rfl⟩ | ⟨a, ha, hf, -, -, rfl⟩ := execute_eq_next hx
  · show Inv (s.setStatus .idle)
    rwa [State.setStatus_self hi]
  · show Inv ((s.setStatus .idle).logPoint .transferOutOfBounds)
    rw [State.setStatus_self hi]
    exact h.logPoint _
  · rw [landed_issued_setStatus hi]
    exact (h.issued a).landed (by simpa using hl) (by simpa using LandFits.of_fits ha hf)

theorem agentTurn_keepsInv (h : Inv s) (ht : agentTurn s = .next t) : Inv t := by
  obtain rfl | ⟨⟨hlife, -⟩, -, ⟨hin, u, hu, rfl⟩ | ⟨hin, u, hu, rfl⟩ | ⟨hin, hf, -, -, rfl⟩ | ⟨hin, rfl⟩⟩ :=
    agentTurn_eq_next ht
  · exact h
  · obtain ⟨-, rfl⟩ | ⟨a, -, -, rfl⟩ := issue_eq_noCall hu
    · exact h.setPhase (by simp [hin]) nofun
    · exact (h.logPoint _).setPhase (by simp [hin]) nofun
  · obtain ⟨a, ha, hfits, rfl⟩ := issue_eq_call hu
    exact (h.issued a).setPhase (by simp [hin]) fun _ => ⟨a, by simpa using ha, by simpa using hfits⟩
  · exact (h.landed (by simp [hlife]) hf).setPhase (by simp [hin]) nofun
  · have hidle := h.setDev (d := { s.dev with status := .idle, inflight := none }) h.buf
      (fun hd => hd.finish (by simp [hin])) rfl
    exact hidle.setReply _

/-- A configuration write keeps the mask (R204). -/
theorem configWrite_keepsInv (h : Inv s) {dma : DmaConfig} (hm : dma.mask = s.dev.dma.mask)
    (ht : (s.dev.status = .idle ∧ t = (s.setDma dma).setReply (some .ack)) ∨
      (s.dev.status ≠ .idle ∧ t = (s.logPoint .configWhileBusy).setReply (some .ack))) : Inv t := by
  obtain ⟨hi, rfl⟩ | ⟨-, rfl⟩ := ht
  · exact (h.setDma hi hm).setReply _
  · exact (h.logPoint _).setReply _

theorem execInit_keepsInv (h : Inv s) (ht : execInit s = .next t) : Inv t := by
  obtain ⟨hl, rfl⟩ := execInit_eq_next ht
  have hquiet : lineLevel s.trace = none := h.quiet hl
  exact ⟨rfl, fun _ => deviceInv_initial s.cfg, by simp [lineLevel_append, hquiet], nofun⟩

theorem execReset_keepsInv (h : Inv s) (ht : execReset s = .next t) : Inv t := by
  obtain ⟨⟨hl, -⟩, ho, hin, -, rfl⟩ := execReset_eq_next ht
  have hi : s.dev.status = .idle := (h.device (by simp [hl])).status_eq_idle ho hin
  have hreset : Inv (dmaReset s.clearRegs) := h.clearRegs.dmaReset hi
  exact (hreset.lowered (by simp [dmaReset, hl])).setReply _

theorem execFinalize_keepsInv (h : Inv s) (ht : execFinalize s = .next t) : Inv t := by
  obtain ⟨⟨hl, -⟩, ho, hin, -, u, hu, rfl⟩ := execFinalize_eq_next ht
  have hne : s.life ≠ .absent := by simp [hl]
  have hi : s.dev.status = .idle := (h.device hne).status_eq_idle ho hin
  have hlow : Inv (lowered s) := h.lowered hne
  cases hm : isMessage s.dev.irq with
  | true =>
    obtain rfl : u = ((lowered s).emit .releaseVectors).setReleased true := by simpa [hm] using hu
    simpa [hm] using ((hlow.emit lineLevel_releaseVectors).dmaFinalize hi).setReply (some .ack)
  | false =>
    obtain rfl : u = lowered s := by simpa [hm] using hu
    have hrel : (lowered s).dev.released = false := (h.device hne).released_eq_false ho
    simpa [hm, State.setReleased_self hrel] using (hlow.dmaFinalize hi).setReply (some .ack)

theorem exec_keepsInv {i : Instr} (h : Inv s) (hx : exec i s = .next t) : Inv t := by
  obtain ⟨htaken, ht⟩ := exec_eq_next hx
  cases i with
  | rdReg0 | rdReg1 | rdReg2 | rdReg3 | rdWo20 | rdWo28 | rdWo30 | rdWo38 | rdWo40 | rdWo48 | rdWo50 =>
    cases ht; exact h.setReply _
  | rdUnmapped | rdInvalid | wrUnmapped | wrInvalid => cases ht; exact (h.logPoint _).setReply _
  | wrReg0 | wrReg1 | wrReg2 | wrReg3 => cases ht; exact (h.setReg _ _).setReply _
  | wrIrqRaise =>
    obtain ⟨⟨hl, -⟩, -⟩ := htaken
    obtain ⟨-, rfl⟩ := ht
    exact (h.raised (by simp [hl])).setReply _
  | wrIrqLower =>
    obtain ⟨⟨hl, -⟩, -⟩ := htaken
    obtain ⟨-, rfl⟩ := ht
    exact (h.lowered (by simp [hl])).setReply _
  | wrDmaSrc | wrDmaDst | wrDmaLen | wrDmaCmd => exact configWrite_keepsInv h (by rfl) ht
  | wrDoorbell =>
    obtain ⟨⟨hl, -⟩, -⟩ := htaken
    obtain ⟨-, rfl⟩ | ⟨hi, -, u, hu, rfl⟩ | ⟨hi, hser, rfl⟩ := ht
    · exact h.setReply _
    · exact (execute_keepsInv h (by simp [hl]) hi hu).setReply _
    · have haccept := h.setDev (d := { s.dev with status := .executing, inflight := some .started }) h.buf
        (fun hd => hd.accept hi hser) rfl
      exact haccept.setReply _
  | init => exact execInit_keepsInv h hx
  | reset => exact execReset_keepsInv h hx
  | finalize => exact execFinalize_keepsInv h hx

theorem teardown_keepsInv (h : Inv s) (ht : teardown s = .next t) : Inv t := by
  obtain ⟨⟨hl, -⟩, rfl⟩ := teardown_eq_next ht
  have hne : s.life ≠ .absent := by simp [hl]
  exact ⟨h.buf, fun _ => h.device hne, fun _ => h.line hne, nofun⟩

end

/-- Settles O47: the turns left are no part of the invariant, and each kind of turn keeps it. -/
theorem everyStepKeepsTheInvariant : Obligations.EveryStepKeepsTheInvariant := by
  intro s t h hst
  obtain ⟨rest, ⟨i, hi⟩ | ha | hd⟩ := step_eq_next hst
  · exact exec_keepsInv (h.setInbox rest) hi
  · exact agentTurn_keepsInv (h.setInbox rest) ha
  · exact teardown_keepsInv (h.setInbox rest) hd

end Sys2Proof

namespace Sys2Proof.Machine

/-! ### The general registers -/

theorem execute_keepsRegs {s t : State} (h : execute s = .next t) : t.dev.reg = s.dev.reg := by
  obtain ⟨-, rfl⟩ | ⟨a, -, -, rfl⟩ | ⟨a, -, -, -, -, rfl⟩ := execute_eq_next h <;> simp

theorem agentTurn_keepsRegs {s t : State} (h : agentTurn s = .next t) : t.dev.reg = s.dev.reg := by
  obtain rfl | ⟨-, -, ⟨-, u, hu, rfl⟩ | ⟨-, u, hu, rfl⟩ | ⟨-, -, -, -, rfl⟩ | ⟨-, rfl⟩⟩ := agentTurn_eq_next h
  · rfl
  · obtain ⟨-, rfl⟩ | ⟨a, -, -, rfl⟩ := issue_eq_noCall hu <;> rfl
  · obtain ⟨a, -, -, rfl⟩ := issue_eq_call hu
    simp
  · simp
  · rfl

/-- A write of another register leaves register `j` alone. -/
theorem setReg_other (s : State) {i j : Fin 4} (h : i ≠ j) (v : Word) : (s.setReg i v).dev.reg[j] = s.dev.reg[j] := by
  simp only [State.setReg, Fin.getElem_fin]
  exact Vector.getElem_set_ne _ _ (Fin.val_ne_of_ne h)

theorem exec_keepsReg {i : Instr} {j : Fin 4} {s t : State} (h : exec i s = .next t) (hj : writesReg j i = false)
    (hreset : i ≠ .reset) (hinit : i ≠ .init) : t.dev.reg[j] = s.dev.reg[j] := by
  have ht := (exec_eq_next h).2
  cases i with
  | init => exact absurd rfl hinit
  | reset => exact absurd rfl hreset
  | wrReg0 | wrReg1 | wrReg2 | wrReg3 =>
    cases ht
    exact setReg_other s (ne_of_beq_false hj).symm _
  | wrIrqRaise | wrIrqLower => obtain ⟨-, rfl⟩ := ht; rfl
  | wrDmaSrc | wrDmaDst | wrDmaLen | wrDmaCmd => obtain ⟨-, rfl⟩ | ⟨-, rfl⟩ := ht <;> rfl
  | wrDoorbell =>
    obtain ⟨-, rfl⟩ | ⟨-, -, u, hu, rfl⟩ | ⟨-, -, rfl⟩ := ht
    · rfl
    · have hreg := execute_keepsRegs hu
      exact congrArg (·[j]) hreg
    · rfl
  | finalize =>
    obtain ⟨-, u, rfl, rfl⟩ := ht
    split <;> rfl
  | _ => cases ht; rfl

/-- Settles O16: the registers under every transaction, after `init` and `reset`, and under the agent and the
teardown. -/
theorem registersChangeOnlyByTheirWriteOrReset : Obligations.RegistersChangeOnlyByTheirWriteOrReset := by
  refine ⟨fun i j s t => exec_keepsReg, fun j s t h => ?_, fun s t h => ?_⟩
  · have hzero : (Vector.replicate 4 0#64)[j] = 0 := by simp
    obtain hi | hr := h
    · obtain ⟨-, rfl⟩ := execInit_eq_next hi
      exact hzero
    · obtain ⟨-, -, -, -, rfl⟩ := execReset_eq_next hr
      exact hzero
  · obtain ha | hd := h
    · exact agentTurn_keepsRegs ha
    · obtain ⟨-, rfl⟩ := teardown_eq_next hd
      rfl

/-! ### Buffer and interrupt state under the other accesses -/

/-- Settles O33: of those accesses only the interrupt writes change more of the Device than a register or the
configuration. -/
theorem otherAccessesLeaveBufferAndInterrupts : Obligations.OtherAccessesLeaveBufferAndInterrupts := by
  intro i s t h hhook hbell
  have ht := (exec_eq_next h).2
  cases i with
  | init | reset | finalize => cases hhook
  | wrDoorbell v z => exact absurd rfl (hbell v z)
  | wrIrqRaise v z =>
    obtain ⟨-, rfl⟩ := ht
    exact ⟨fun _ => rfl, rfl, rfl, rfl, rfl, rfl, fun hne => absurd rfl (hne v z).1⟩
  | wrIrqLower v z =>
    obtain ⟨-, rfl⟩ := ht
    exact ⟨fun _ => rfl, rfl, rfl, rfl, rfl, rfl, fun hne => absurd rfl (hne v z).2⟩
  | wrDmaSrc | wrDmaDst | wrDmaLen | wrDmaCmd =>
    obtain ⟨-, rfl⟩ | ⟨-, rfl⟩ := ht <;> exact ⟨fun _ => rfl, rfl, rfl, rfl, rfl, rfl, fun _ => rfl⟩
  | _ => cases ht; exact ⟨fun _ => rfl, rfl, rfl, rfl, rfl, rfl, fun _ => rfl⟩

/-! ### Hooks during a transfer, and sticky faults -/

theorem whenHookAllowed_of_inflight {s : State} (h : Ready s) (ho : s.dev.status ≠ .off)
    (hin : s.dev.inflight ≠ none) (k : State → Result) :
    whenHookAllowed s k = .fault .lifecycleDuringTransfer := by
  simp [whenHookAllowed, whenAlive_of_ready h, ho, Option.isSome_iff_ne_none.mpr hin, raiseFault]

theorem execInit_of_inflight {s : State} (h : Ready s) (hin : s.dev.inflight ≠ none) :
    execInit s = .fault .lifecycleDuringTransfer := by
  simp [execInit, h.1, whenAlive_of_ready h, initAgain, Option.isSome_iff_ne_none.mpr hin, raiseFault]

/-- Settles O41: a Device with a doorbell in flight is Executing, so no earlier check of a hook stops it. -/
theorem hooksDuringATransferFault : Obligations.HooksDuringATransferFault := by
  refine ⟨fun s i hr hinv hin hi => ?_, fun s hinv hl hser => (hinv.device hl).serialized hser⟩
  have hx : s.dev.status = .executing := (hinv.device (by simp [hr.1])).inflight.mpr hin
  have ho : s.dev.status ≠ .off := by simp [hx]
  cases i with
  | init => exact execInit_of_inflight hr hin
  | reset => rw [exec, execReset, whenHookAllowed_of_inflight hr ho hin]
  | finalize => rw [exec, execFinalize, whenHookAllowed_of_inflight hr ho hin]
  | _ => cases hi

theorem agentTurn_of_fault {s : State} {f : Fault} (hl : s.life = .present) (hf : s.dev.fault = some f) :
    agentTurn s = .fault f := by
  simp [agentTurn, hl, hf, raiseFault]

/-- Settles O44: each kind of turn stands behind a gate that answers the Device's fault. -/
theorem faultsAreSticky : Obligations.FaultsAreSticky := by
  intro s r hl hf
  rcases hq : s.inbox with _ | ⟨q | _ | _, rest⟩
  · rw [step_of_idle hq]
    exact agentTurn_of_fault hl hf
  · obtain ⟨k, hk⟩ := exec_eq_whenAlive (decodeRequest q)
    rw [step_of_host hq, hk _ (.inr (by simp [hl]))]
    exact whenAlive_of_fault (s := s.setInbox rest) hl hf k
  · rw [step_of_dmaAgent hq]
    exact agentTurn_of_fault hl hf
  · rw [step_of_teardown hq]
    exact whenAlive_of_fault (s := s.setInbox rest) hl hf _

/-! ### The form of the buffer -/

theorem execute_keepsBufWf {s t : State} (hb : s.dev.buf.wf = true) (h : execute s = .next t) :
    t.dev.buf.wf = true := by
  obtain ⟨-, rfl⟩ | ⟨a, -, -, rfl⟩ | ⟨a, ha, hf, -, -, rfl⟩ := execute_eq_next h
  · exact hb
  · exact hb
  · simpa using wf_landedBuf (LandFits.of_fits ha hf) _ _ hb

theorem agentTurn_keepsBufWf {s t : State} (hb : s.dev.buf.wf = true) (h : agentTurn s = .next t) :
    t.dev.buf.wf = true := by
  obtain rfl | ⟨-, -, ⟨-, u, hu, rfl⟩ | ⟨-, u, hu, rfl⟩ | ⟨-, hf, -, -, rfl⟩ | ⟨-, rfl⟩⟩ := agentTurn_eq_next h
  · exact hb
  · obtain ⟨-, rfl⟩ | ⟨a, -, -, rfl⟩ := issue_eq_noCall hu <;> exact hb
  · obtain ⟨a, -, -, rfl⟩ := issue_eq_call hu
    simpa using hb
  · simpa using wf_landedBuf hf _ _ hb
  · exact hb

/-- Besides the doorbell the hooks alone write the buffer, and they empty it. -/
theorem exec_keepsBufWf {i : Instr} {s t : State} (hb : s.dev.buf.wf = true) (h : exec i s = .next t) :
    t.dev.buf.wf = true := by
  have ht := (exec_eq_next h).2
  cases i with
  | wrDoorbell =>
    obtain ⟨-, rfl⟩ | ⟨-, -, u, hu, rfl⟩ | ⟨-, -, rfl⟩ := ht
    · exact hb
    · have hbuf := execute_keepsBufWf (s := s.setStatus .executing) hb hu
      exact hbuf
    · exact hb
  | init => cases ht; rfl
  | reset => obtain ⟨-, rfl⟩ := ht; rfl
  | finalize => obtain ⟨-, u, -, rfl⟩ := ht; rfl
  | wrIrqRaise | wrIrqLower => obtain ⟨-, rfl⟩ := ht; exact hb
  | wrDmaSrc | wrDmaDst | wrDmaLen | wrDmaCmd => obtain ⟨-, rfl⟩ | ⟨-, rfl⟩ := ht <;> exact hb
  | _ => cases ht; exact hb

/-- Settles O48: each kind of turn keeps the form. -/
theorem everyStepKeepsTheBufferForm : Obligations.EveryStepKeepsTheBufferForm := by
  intro s t hb h
  obtain ⟨rest, ⟨i, hi⟩ | ha | hd⟩ := step_eq_next h
  · exact exec_keepsBufWf (s := s.setInbox rest) hb hi
  · exact agentTurn_keepsBufWf (s := s.setInbox rest) hb ha
  · obtain ⟨-, rfl⟩ := teardown_eq_next hd
    exact hb

/-! ### DMA status -/

/-- What a transaction can do to the status of a Device that meets the invariant (R50). -/
theorem exec_status {i : Instr} {s t : State} (hinv : Inv s) (hl : s.life ≠ .absent) (h : exec i s = .next t)
    (hne : t.dev.status ≠ s.dev.status) :
    (s.dev.status = .idle ∧ t.dev.status = .executing ∧ (∃ v z, i = .wrDoorbell v z) ∧ s.cfg.serialized = false) ∨
      (i = .finalize ∧ s.dev.status = .idle ∧ t.dev.status = .off) := by
  obtain ⟨htaken, ht⟩ := exec_eq_next h
  cases i with
  | init => exact absurd htaken hl
  | reset =>
    obtain ⟨-, ho, hin⟩ := htaken
    obtain ⟨-, rfl⟩ := ht
    exact absurd ((hinv.device hl).status_eq_idle ho hin).symm hne
  | finalize =>
    obtain ⟨-, ho, hin⟩ := htaken
    obtain ⟨-, u, -, rfl⟩ := ht
    exact .inr ⟨rfl, (hinv.device hl).status_eq_idle ho hin, rfl⟩
  | wrDoorbell v z =>
    obtain ⟨-, rfl⟩ | ⟨hi, -, u, -, rfl⟩ | ⟨hi, hser, rfl⟩ := ht
    · exact absurd rfl hne
    · exact absurd hi.symm hne
    · exact .inl ⟨hi, rfl, ⟨v, z, rfl⟩, hser⟩
  | wrIrqRaise | wrIrqLower => obtain ⟨-, rfl⟩ := ht; exact absurd rfl hne
  | wrDmaSrc | wrDmaDst | wrDmaLen | wrDmaCmd => obtain ⟨-, rfl⟩ | ⟨-, rfl⟩ := ht <;> exact absurd rfl hne
  | _ => cases ht; exact absurd rfl hne

/-- The agent changes the status in its finish phase alone. -/
theorem agentTurn_status {s t : State} (hinv : Inv s) (h : agentTurn s = .next t)
    (hne : t.dev.status ≠ s.dev.status) : s.dev.status = .executing ∧ t.dev.status = .idle := by
  obtain rfl | ⟨⟨hl, -⟩, -, ⟨-, u, hu, rfl⟩ | ⟨-, u, hu, rfl⟩ | ⟨-, -, -, -, rfl⟩ | ⟨hin, rfl⟩⟩ := agentTurn_eq_next h
  · exact absurd rfl hne
  · obtain ⟨-, rfl⟩ | ⟨a, -, -, rfl⟩ := issue_eq_noCall hu <;> exact absurd rfl hne
  · obtain ⟨a, -, -, rfl⟩ := issue_eq_call hu
    simp at hne
  · simp at hne
  · exact ⟨(hinv.device (by simp [hl])).inflight.mpr (by simp [hin]), rfl⟩

/-- Off is terminal: no transition starts there. -/
theorem step_keepsOff {s t : State} (hinv : Inv s) (hl : s.life ≠ .absent) (ho : s.dev.status = .off)
    (h : step s = .next t) : t.dev.status = .off := by
  by_contra hne
  have hchange : t.dev.status ≠ s.dev.status := by rwa [ho]
  obtain ⟨rest, ⟨i, hi⟩ | ha | hd⟩ := step_eq_next h
  · obtain ⟨hidle, -⟩ | ⟨-, hidle, -⟩ := exec_status (hinv.setInbox rest) hl hi hchange
    · cases ho.symm.trans hidle
    · cases ho.symm.trans hidle
  · exact nomatch ho.symm.trans (agentTurn_status (hinv.setInbox rest) ha hchange).1
  · obtain ⟨-, rfl⟩ := teardown_eq_next hd
    exact hne ho

/-- Settles O50: the transitions of transactions, those of the agent, and that none starts in Off. -/
theorem statusTransitions : Obligations.StatusTransitions :=
  ⟨fun _ _ _ => exec_status, fun _ _ => agentTurn_status, fun _ _ => step_keepsOff⟩

end Sys2Proof.Machine
end

section
/-! PROOFS of the family 20_memory: every meaning passes the turns left through untouched, built up one gate and one
operation at a time, and from it the order of transactions. -/

namespace Sys2Proof.Machine

/-! ### The turns left do not matter -/

/-- `f` neither reads nor writes the turns left: under other turns it ends alike, and leaves those turns. -/
def IgnoresTurns (f : State → Result) : Prop :=
  ∀ (s : State) (turns : List Turn), f (s.setInbox turns) = andThen (f s) fun t => .next (t.setInbox turns)

namespace IgnoresTurns

theorem fault (f : Fault) : IgnoresTurns fun _ => .fault f := fun _ _ => rfl

theorem refused (r : Refusal) : IgnoresTurns fun _ => .refused r := fun _ _ => rfl

theorem andThen {f k : State → Result} (hf : IgnoresTurns f) (hk : IgnoresTurns k) :
    IgnoresTurns fun s => andThen (f s) k := by
  intro s turns
  beta_reduce
  rw [hf s turns]
  cases f s with
  | next t => exact hk t turns
  | fault _ => rfl
  | refused _ => rfl

/-- A branch whose condition does not look at the turns left. -/
theorem ite {c : State → Prop} [DecidablePred c] {f g : State → Result}
    (hc : ∀ s turns, c (s.setInbox turns) ↔ c s) (hf : IgnoresTurns f) (hg : IgnoresTurns g) :
    IgnoresTurns fun s => if c s then f s else g s := by
  intro s turns
  by_cases h : c s
  · simpa only [hc, h, if_true] using hf s turns
  · simpa only [hc, h, if_false] using hg s turns

theorem whenAlive {k : State → Result} (hk : IgnoresTurns k) : IgnoresTurns fun s => whenAlive s k := by
  intro s turns
  beta_reduce
  cases hl : s.life with
  | absent => rw [whenAlive_of_absent hl, whenAlive_of_absent (s := s.setInbox turns) hl]; rfl
  | tornDown => rw [whenAlive_of_tornDown hl, whenAlive_of_tornDown (s := s.setInbox turns) hl]; rfl
  | present =>
    cases hf : s.dev.fault with
    | some r => rw [whenAlive_of_fault hl hf, whenAlive_of_fault (s := s.setInbox turns) hl hf]; rfl
    | none =>
      rw [whenAlive_of_ready ⟨hl, hf⟩, whenAlive_of_ready (s := s.setInbox turns) ⟨hl, hf⟩]
      exact hk s turns

theorem whenSize {size : Nat} {k : State → Result} (hk : IgnoresTurns k) :
    IgnoresTurns fun s => whenSize size s k :=
  whenAlive (ite (fun _ _ => Iff.rfl) hk (refused _))

theorem whenHookAllowed {k : State → Result} (hk : IgnoresTurns k) : IgnoresTurns fun s => whenHookAllowed s k :=
  whenAlive (ite (fun _ _ => Iff.rfl) (fault _) (ite (fun _ _ => Iff.rfl) (fault _) hk))

/-- What ignores the turns left leaves them as they are. -/
theorem inbox_eq {f : State → Result} (hf : IgnoresTurns f) {s t : State} (h : f s = .next t) :
    t.inbox = s.inbox := by
  have hturns : f s = Machine.andThen (f s) fun u => .next (u.setInbox s.inbox) := hf s s.inbox
  rw [h, andThen_next] at hturns
  have ht : t = t.setInbox s.inbox := Host.Outcome.next.inj hturns
  rw [ht, State.setInbox_inbox]

end IgnoresTurns

theorem returnAck_ignoresTurns : IgnoresTurns returnAck := fun _ _ => rfl

theorem raiseIrq_ignoresTurns : IgnoresTurns (raiseIrq 0) := by
  rw [funext raiseIrq_zero]
  exact .ite (fun _ _ => Iff.rfl) (.fault _) fun _ _ => rfl

theorem lowerIrq_ignoresTurns : IgnoresTurns (lowerIrq 0) := by
  rw [funext lowerIrq_zero]
  exact .ite (fun _ _ => Iff.rfl) (.fault _) fun _ _ => rfl

/-! ### Register-window accesses without an engine behind them -/

theorem readReg_ignoresTurns (i : Fin 4) (size : Nat) : IgnoresTurns (readReg i size) := .whenSize fun _ _ => rfl

theorem writeReg_ignoresTurns (i : Fin 4) (v : Word) (size : Nat) : IgnoresTurns (writeReg i v size) :=
  .whenSize fun _ _ => rfl

theorem readSentinel_ignoresTurns (size : Nat) : IgnoresTurns (readSentinel size) := .whenSize fun _ _ => rfl

theorem readNowhere_ignoresTurns (size : Nat) : IgnoresTurns (readNowhere size) := .whenSize fun _ _ => rfl

theorem writeNowhere_ignoresTurns (size : Nat) : IgnoresTurns (writeNowhere size) := .whenSize fun _ _ => rfl

theorem configure_ignoresTurns (f : DmaConfig → DmaConfig) (size : Nat) : IgnoresTurns (configure f size) :=
  .whenSize (.ite (fun _ _ => Iff.rfl) (fun _ _ => rfl) fun _ _ => rfl)

theorem execWrIrqRaise_ignoresTurns (v : Word) (size : Nat) : IgnoresTurns (execWrIrqRaise v size) :=
  .whenSize (raiseIrq_ignoresTurns.andThen returnAck_ignoresTurns)

theorem execWrIrqLower_ignoresTurns (v : Word) (size : Nat) : IgnoresTurns (execWrIrqLower v size) :=
  .whenSize (lowerIrq_ignoresTurns.andThen returnAck_ignoresTurns)

/-! ### The doorbell -/

theorem land_setInbox {s : State} (h : LandFits s.dev.dma) (turns : List Turn) :
    land (s.setInbox turns) = andThen (land s) fun t => .next (t.setInbox turns) := by
  cases hb : s.busReturns with
  | false => rw [land_of_hang hb, land_of_hang (s := s.setInbox turns) hb]; rfl
  | true =>
    rw [land_of_landFits h hb, land_of_landFits (s := s.setInbox turns) h hb, landed_setInbox]
    show (if isMessage s.dev.irq && s.dev.released then _ else _) = _
    split <;> rfl

theorem execute_ignoresTurns : IgnoresTurns execute := by
  intro s turns
  unfold execute
  cases hd : deviceSide s.dev.dma with
  | none => rw [issue_of_no_command hd, issue_of_no_command (s := s.setInbox turns) hd]; rfl
  | some a =>
    cases hw : inWindow a with
    | false => rw [issue_of_out_of_window hd hw, issue_of_out_of_window (s := s.setInbox turns) hd hw]; rfl
    | true =>
      rcases Nat.lt_or_ge Config.areaSize (bufOffset a + s.dev.dma.len.toNat) with ho | ho
      · rw [issue_of_overrun hd hw ho, issue_of_overrun (s := s.setInbox turns) hd hw ho]; rfl
      · have hf : TransferFits a s.dev.dma.len := ⟨hw, ho⟩
        rw [issue_of_fits hd hf, issue_of_fits (s := s.setInbox turns) hd hf, issued_setInbox]
        exact land_setInbox (by simpa using LandFits.of_fits hd hf) turns

/-- The one-step doorbell as a branch on its compare-and-swap (R210). -/
theorem ringSerialized_eq (s : State) :
    ringSerialized s =
      if s.dev.status = .idle then
        andThen (execute (s.setStatus .executing)) fun u => returnAck (u.setStatus .idle)
      else returnAck s := by
  split
  · exact ringSerialized_of_idle ‹_›
  · exact ringSerialized_of_busy ‹_›

/-- The accept phase as a branch on its compare-and-swap (R330). -/
theorem ringAccept_eq (s : State) :
    ringAccept s =
      if s.dev.status = .idle then .next (((s.setStatus .executing).setInflight (some .started)).setReply none)
      else returnAck s := by
  split
  · exact ringAccept_of_idle ‹_›
  · exact ringAccept_of_busy ‹_›

theorem ringSerialized_ignoresTurns : IgnoresTurns ringSerialized := by
  have hswapped : IgnoresTurns fun s => execute (s.setStatus .executing) := fun s =>
    execute_ignoresTurns (s.setStatus .executing)
  rw [funext ringSerialized_eq]
  exact .ite (fun _ _ => Iff.rfl) (hswapped.andThen fun _ _ => rfl) returnAck_ignoresTurns

theorem ringAccept_ignoresTurns : IgnoresTurns ringAccept := by
  rw [funext ringAccept_eq]
  exact .ite (fun _ _ => Iff.rfl) (fun _ _ => rfl) returnAck_ignoresTurns

theorem execWrDoorbell_ignoresTurns (v : Word) (size : Nat) : IgnoresTurns (execWrDoorbell v size) :=
  .whenSize (.ite (fun _ _ => Iff.rfl) ringSerialized_ignoresTurns ringAccept_ignoresTurns)

/-! ### The hooks -/

theorem initAgain_ignoresTurns : IgnoresTurns initAgain := .ite (fun _ _ => Iff.rfl) (.fault _) (.fault _)

/-- `init` as a branch on whether there is a Device (R350, R364). -/
theorem execInit_eq (s : State) :
    execInit s = if s.life = .absent then returnAck (initDevice s) else whenAlive s initAgain := by
  cases h : s.life <;> simp [execInit, h]

theorem execInit_ignoresTurns : IgnoresTurns execInit := by
  rw [funext execInit_eq]
  exact .ite (fun _ _ => Iff.rfl) (fun _ _ => rfl) (.whenAlive initAgain_ignoresTurns)

theorem execReset_ignoresTurns : IgnoresTurns execReset := by
  have hlower : IgnoresTurns fun s => irqReset (dmaReset s.clearRegs) := fun s =>
    lowerIrq_ignoresTurns (dmaReset s.clearRegs)
  exact .whenHookAllowed (hlower.andThen returnAck_ignoresTurns)

theorem irqFinalize_ignoresTurns : IgnoresTurns irqFinalize :=
  lowerIrq_ignoresTurns.andThen (.ite (fun _ _ => Iff.rfl) (fun _ _ => rfl) fun _ _ => rfl)

theorem execFinalize_ignoresTurns : IgnoresTurns execFinalize :=
  .whenHookAllowed (irqFinalize_ignoresTurns.andThen fun _ _ => rfl)

/-! ### Every transaction -/

theorem exec_ignoresTurns (i : Instr) : IgnoresTurns (exec i) := by
  cases i with
  | rdReg0 | rdReg1 | rdReg2 | rdReg3 => exact readReg_ignoresTurns _ _
  | rdWo20 | rdWo28 | rdWo30 | rdWo38 | rdWo40 | rdWo48 | rdWo50 => exact readSentinel_ignoresTurns _
  | rdUnmapped | rdInvalid => exact readNowhere_ignoresTurns _
  | wrReg0 | wrReg1 | wrReg2 | wrReg3 => exact writeReg_ignoresTurns _ _ _
  | wrUnmapped | wrInvalid => exact writeNowhere_ignoresTurns _
  | wrDmaSrc v size => exact configure_ignoresTurns (fun d => { d with src := v }) size
  | wrDmaDst v size => exact configure_ignoresTurns (fun d => { d with dst := v }) size
  | wrDmaLen v size => exact configure_ignoresTurns (fun d => { d with len := v }) size
  | wrDmaCmd v size => exact configure_ignoresTurns (fun d => { d with cmd := v }) size
  | wrIrqRaise v size => exact execWrIrqRaise_ignoresTurns v size
  | wrIrqLower v size => exact execWrIrqLower_ignoresTurns v size
  | wrDoorbell v size => exact execWrDoorbell_ignoresTurns v size
  | init => exact execInit_ignoresTurns
  | reset => exact execReset_ignoresTurns
  | finalize => exact execFinalize_ignoresTurns

/-! ### Serialized accesses -/

/-- Where accesses are serialized no agent moves (R10). -/
theorem agentTurn_of_serialized {s : State} (hinv : Inv s) (hl : s.life = .present)
    (hser : s.cfg.serialized = true) : agentTurn s = .next s := by
  have hdev := hinv.device (by simp [hl])
  exact agentTurn_of_none ⟨hl, hdev.fault⟩ (hdev.serialized hser)

/-- A serialized doorbell's write returns in its own step; the Device and the regime are still there (R210). -/
theorem execWrDoorbell_returns {s t : State} {v : Word} {size : Nat} (hser : s.cfg.serialized = true)
    (h : exec (.wrDoorbell v size) s = .next t) :
    t.reply = some .ack ∧ t.life = .present ∧ t.cfg.serialized = true := by
  obtain ⟨⟨hl, -⟩, -, ⟨-, rfl⟩ | ⟨-, -, u, hu, rfl⟩ | ⟨-, hns, -⟩⟩ := execWrDoorbell_eq_next (v := v) h
  · exact ⟨rfl, hl, hser⟩
  · obtain ⟨-, rfl⟩ | ⟨a, -, -, rfl⟩ | ⟨a, -, -, -, -, rfl⟩ := execute_eq_next hu <;> simp [hl, hser]
  · cases hser.symm.trans hns

/-- Settles O54: no meaning looks at the turns left, and the invariant puts nothing in flight where accesses are
serialized. -/
theorem transactionsTakeEffectInOrder : Obligations.TransactionsTakeEffectInOrder := by
  refine ⟨exec_ignoresTurns, fun i j s t rest hs h => ?_, fun s => agentTurn_of_serialized,
    fun s t v z hinv hser h => ?_⟩
  · rw [step_of_host hs] at h
    have ht : t.inbox = .host j :: rest := (exec_ignoresTurns _).inbox_eq h
    exact ⟨ht, step_of_host ht⟩
  · obtain ⟨hreply, hl, hser'⟩ := execWrDoorbell_returns hser h
    have hinv' : Inv t := exec_keepsInv hinv h
    have hdev := hinv'.device (by simp [hl])
    have hin : t.dev.inflight = none := hdev.serialized hser'
    exact ⟨hin, fun hx => hdev.inflight.mp hx hin, hreply, agentTurn_of_serialized hinv' hl hser'⟩

end Sys2Proof.Machine
end

section
/-! PROOFS of the family 30_encoding: words as bytes, the packet and its parser, and the opcode table as match and mask
rows. -/

namespace Sys2Proof

/-! ### Words as bytes -/

/-- The low bytes of a word: its lowest byte, then those of the word shifted down by one byte (R84). -/
theorem bytesOfWord_succ (n : Nat) (v : Word) :
    bytesOfWord (n + 1) v = v.setWidth 8 :: bytesOfWord n (v >>> 8) := by
  have hshift (j : Nat) : v.extractLsb' (8 * (j + 1)) 8 = (v >>> 8).extractLsb' (8 * j) 8 := by
    ext k hk
    simp [show 8 * (j + 1) + k = 8 + (8 * j + k) by omega]
  have hlow : v.extractLsb' 0 8 = v.setWidth 8 := (BitVec.setWidth_eq_extractLsb' (by decide)).symm
  simp [bytesOfWord, List.range_succ_eq_map, Function.comp_def, hshift, hlow]

/-- Reading the low `n` bytes of a word back gives what an access of `n` bytes delivers of it (R84, R85). -/
theorem wordOfBytes_bytesOfWord (n : Nat) (v : Word) : wordOfBytes (bytesOfWord n v) = deliverWrite n v := by
  induction n generalizing v with
  | zero => simp [bytesOfWord, wordOfBytes, deliverWrite, BitVec.of_length_zero (x := v.setWidth 0)]
  | succ n ih =>
    rw [bytesOfWord_succ, wordOfBytes, ih]
    ext k hk
    by_cases hlow : k < 8
    · have hfits : k < 8 * (n + 1) := by omega
      simp [deliverWrite, hlow, hk, hfits]
    · have hfits : k - 8 < 8 * n ↔ k < 8 * (n + 1) := by omega
      simp [deliverWrite, hlow, hk, hfits, show 8 + (k - 8) = k by omega]

/-! ### The packet and its parser (log entry 4) -/

/-- The parser takes a packet's two words and its control byte apart, and leaves what follows. -/
theorem parsePacket_bytes (o v : Word) (c : Byte) (rest : List Byte) :
    parsePacket (bytesOfWord 8 o ++ c :: bytesOfWord 8 v ++ rest) = some (requestOfFields o c v, rest) := by
  have hword (x : Word) : wordOfBytes (bytesOfWord 8 x) = x := by
    rw [wordOfBytes_bytesOfWord, deliverWrite_eight]
  have hlong : 17 ≤ 8 + (8 + rest.length + 1) := by omega
  simp [parsePacket, packetBytes, hword, List.drop_append, List.drop_of_length_le, hlong]

/-- The control byte of an access with a legal size carries its direction and its size (R13). -/
theorem requestOfFields_controlByte (w : Bool) (o v : Word) {z : Nat} (h : sizeOk z = true) :
    requestOfFields o (controlByte (.mmio w o z v)) v = .mmio w o z v := by
  obtain ⟨hlo, hhi⟩ := sizeOk_iff.mp h
  interval_cases z <;> cases w <;> simp [requestOfFields, controlByte]

/-- The packet of a request the Host may make parses to that request (R13). -/
theorem parsePacket_packetOf {r : Request} (h : requestSizeError r = none) (rest : List Byte) :
    parsePacket (packetOf r ++ rest) = some (r, rest) := by
  cases r with
  | mmio w o z v =>
    have hz : sizeOk z = true := by simpa [requestSizeError] using h
    rw [packetOf, parsePacket_bytes, requestOfFields_controlByte w o v hz]
  | hook k =>
    rw [packetOf, parsePacket_bytes]
    cases k <;> rfl

theorem decode_packetOf {r : Request} (h : requestSizeError r = none) (rest : List Byte) :
    decode (packetOf r ++ rest) = .ok (decodeRequest r, rest) := by
  simp [decode, parsePacket_packetOf h rest, h]

/-- The request a well-formed instruction is offered by is one the Host may make and decodes to the instruction. -/
theorem requestOf_roundTrip (i : Instr) : Laws.RequestRoundTrip.Statement i := by
  cases i with
  | rdReg0 z => exact Laws.RequestRoundTrip.rdReg0 z
  | rdReg1 z => exact Laws.RequestRoundTrip.rdReg1 z
  | rdReg2 z => exact Laws.RequestRoundTrip.rdReg2 z
  | rdReg3 z => exact Laws.RequestRoundTrip.rdReg3 z
  | rdWo20 z => exact Laws.RequestRoundTrip.rdWo20 z
  | rdWo28 z => exact Laws.RequestRoundTrip.rdWo28 z
  | rdWo30 z => exact Laws.RequestRoundTrip.rdWo30 z
  | rdWo38 z => exact Laws.RequestRoundTrip.rdWo38 z
  | rdWo40 z => exact Laws.RequestRoundTrip.rdWo40 z
  | rdWo48 z => exact Laws.RequestRoundTrip.rdWo48 z
  | rdWo50 z => exact Laws.RequestRoundTrip.rdWo50 z
  | rdUnmapped o z => exact Laws.RequestRoundTrip.rdUnmapped o z
  | rdInvalid o z => exact Laws.RequestRoundTrip.rdInvalid o z
  | wrReg0 v z => exact Laws.RequestRoundTrip.wrReg0 v z
  | wrReg1 v z => exact Laws.RequestRoundTrip.wrReg1 v z
  | wrReg2 v z => exact Laws.RequestRoundTrip.wrReg2 v z
  | wrReg3 v z => exact Laws.RequestRoundTrip.wrReg3 v z
  | wrIrqRaise v z => exact Laws.RequestRoundTrip.wrIrqRaise v z
  | wrIrqLower v z => exact Laws.RequestRoundTrip.wrIrqLower v z
  | wrDmaSrc v z => exact Laws.RequestRoundTrip.wrDmaSrc v z
  | wrDmaDst v z => exact Laws.RequestRoundTrip.wrDmaDst v z
  | wrDmaLen v z => exact Laws.RequestRoundTrip.wrDmaLen v z
  | wrDmaCmd v z => exact Laws.RequestRoundTrip.wrDmaCmd v z
  | wrDoorbell v z => exact Laws.RequestRoundTrip.wrDoorbell v z
  | wrUnmapped o v z => exact Laws.RequestRoundTrip.wrUnmapped o v z
  | wrInvalid o v z => exact Laws.RequestRoundTrip.wrInvalid o v z
  | init => exact Laws.RequestRoundTrip.init
  | reset => exact Laws.RequestRoundTrip.reset
  | finalize => exact Laws.RequestRoundTrip.finalize

/-- Settles O1: the packet parses to the instruction's request, and that request decodes to the instruction. -/
theorem encodeDecodeRoundTrip : Obligations.EncodeDecodeRoundTrip := by
  intro i rest hwf
  obtain ⟨hsize, hdecode⟩ := requestOf_roundTrip i hwf
  rw [encode, decode_packetOf hsize, hdecode]

/-! ### The register map -/

/-- Settles O2: validity, then the multiples of 8, then the map itself. -/
theorem decodeFollowsTheRegisterMap : Obligations.DecodeFollowsTheRegisterMap := by
  refine ⟨fun w o v z h => decodeAccess_above_window h w v z, fun w o v z hle hmod => ?_, fun v z => ⟨rfl, rfl⟩⟩
  rw [decodeAccess_in_window hle, decodeRead_unmapped z hmod, decodeWrite_unmapped v z hmod]

/-- The offsets the register map gives a register or a command (R125). -/
def mappedOffsets : List Word :=
  [0x00#64, 0x08#64, 0x10#64, 0x18#64, 0x20#64, 0x28#64, 0x30#64, 0x38#64, 0x40#64, 0x48#64, 0x50#64]

theorem offsetInvalid_of_unmapped {o : Word} (h : offsetUnmapped o = true) : offsetInvalid o = false := by
  rw [offsetUnmapped_iff] at h
  simp [offsetInvalid, h.1]

/-- The offsets are those of the map and those of the two catch-all rows (R124). -/
theorem mem_mappedOffsets {o : Word} (hu : offsetUnmapped o = false) (hi : offsetInvalid o = false) :
    o ∈ mappedOffsets := by
  have hle : o.toNat ≤ 80 := by simpa [offsetInvalid] using hi
  have hmod : o.toNat % 8 = 0 := by simpa [offsetUnmapped, hle] using hu
  have hmultiple : o = BitVec.ofNat 64 (8 * (o.toNat / 8)) := by bv_omega
  have hmem : ∀ k : Fin 11, BitVec.ofNat 64 (8 * k) ∈ mappedOffsets := by decide
  rw [hmultiple]
  exact hmem ⟨o.toNat / 8, by omega⟩

/-! ### The opcode table -/

theorem accessKey_eq_self (key : BitVec 65) : accessKey (keyWrite key) (keyOffset key) = key :=
  BitVec.cons_msb_setWidth key

/-- The exact rows' offsets are mapped, so none is one of a catch-all row (R124). -/
theorem exactRows_mapped : ∀ row ∈ tableRows, row.priority = 0 →
    offsetUnmapped (keyOffset row.pattern) = false ∧ offsetInvalid (keyOffset row.pattern) = false := by
  decide

theorem exactRows_mask : ∀ row ∈ tableRows, row.priority = 0 → row.mask = exactMask := by decide

/-- A key that an exact row matches is that row's pattern. -/
theorem eq_pattern_of_rowMatches {key : BitVec 65} {row : TableRow} (hm : row.mask = exactMask)
    (h : rowMatches key row = true) : key = row.pattern := by
  have hall : exactMask = BitVec.allOnes 65 := by decide
  rw [rowMatches, hm, hall, BitVec.and_allOnes, Bool.and_eq_true] at h
  exact eq_of_beq h.1

/-- No exact row matches a key whose offset is one of a catch-all row (R124). -/
theorem rowsMatching_zero_of_catchAll {key : BitVec 65}
    (h : offsetUnmapped (keyOffset key) = true ∨ offsetInvalid (keyOffset key) = true) : rowsMatching 0 key = [] := by
  refine List.filter_eq_nil_iff.mpr fun row hrow hmatch => ?_
  obtain ⟨hp, hm⟩ : row.priority = 0 ∧ rowMatches key row = true := by simpa using hmatch
  obtain ⟨hu, hi⟩ := exactRows_mapped row hrow hp
  rw [← eq_pattern_of_rowMatches (exactRows_mask row hrow hp) hm] at hu hi
  simp [hu, hi] at h

/-- The mask of a catch-all row keeps the direction alone (R124). -/
theorem accessKey_and_catchAllMask (w : Bool) (o : Word) : accessKey w o &&& catchAllMask = accessKey w 0 := by
  have hmask : catchAllMask = BitVec.cons true 0#64 := by decide
  rw [accessKey, hmask, BitVec.cons_and_cons]
  simp [accessKey]

theorem keyOffset_accessKey (w : Bool) (o : Word) : keyOffset (accessKey w o) = o := BitVec.setWidth_cons

/-- A catch-all row: priority 1, the direction and a condition on the offset. -/
def catchAllRow (w : Bool) (cond : Word → Bool) (build : Word → Word → Nat → Instr) : TableRow :=
  { pattern := accessKey w 0, mask := catchAllMask, priority := 1, cond := cond, build := build }

theorem rowMatches_catchAllRow (w w' : Bool) (o : Word) (cond : Word → Bool) (build : Word → Word → Nat → Instr) :
    rowMatches (accessKey w o) (catchAllRow w' cond build) = (w == w' && cond o) := by
  have hpattern : (accessKey w 0 == accessKey w' 0) = (w == w') := by cases w <;> cases w' <;> rfl
  rw [rowMatches, catchAllRow, accessKey_and_catchAllMask, hpattern, keyOffset_accessKey]

@[simp] theorem catchAllRow_build (w : Bool) (cond : Word → Bool) (build : Word → Word → Nat → Instr) :
    (catchAllRow w cond build).build = build := rfl

/-- The table's four rows of priority 1. -/
def catchAllRows : List TableRow :=
  [catchAllRow false offsetUnmapped fun o _ z => .rdUnmapped o z,
    catchAllRow false offsetInvalid fun o _ z => .rdInvalid o z,
    catchAllRow true offsetUnmapped .wrUnmapped, catchAllRow true offsetInvalid .wrInvalid]

theorem tableRows_priority_one : (tableRows.filter fun row => row.priority == 1) = catchAllRows := rfl

/-- Where no exact row matches, the table selects among the catch-all rows. -/
theorem tableSelect_of_catchAll (w : Bool) {o : Word} (v : Word) (z : Nat)
    (h : offsetUnmapped o = true ∨ offsetInvalid o = true) :
    tableSelect (accessKey w o) v z =
      (catchAllRows.filter (rowMatches (accessKey w o))).map fun row => row.build o v z := by
  have hexact : rowsMatching 0 (accessKey w o) = [] :=
    rowsMatching_zero_of_catchAll (by rwa [keyOffset_accessKey])
  have hcatch : rowsMatching 1 (accessKey w o) = catchAllRows.filter (rowMatches (accessKey w o)) := by
    rw [← tableRows_priority_one]
    simp [rowsMatching, List.filter_filter, Bool.and_comm]
  simp [tableSelect, hexact, hcatch, keyOffset_accessKey]

theorem tableSelect_of_unmapped (w : Bool) {o : Word} (v : Word) (z : Nat) (h : offsetUnmapped o = true) :
    tableSelect (accessKey w o) v z = [if w then .wrUnmapped o v z else .rdUnmapped o z] := by
  have hi : offsetInvalid o = false := offsetInvalid_of_unmapped h
  rw [tableSelect_of_catchAll w v z (.inl h)]
  cases w <;> simp [catchAllRows, rowMatches_catchAllRow, h, hi]

theorem tableSelect_of_invalid (w : Bool) {o : Word} (v : Word) (z : Nat) (h : offsetInvalid o = true) :
    tableSelect (accessKey w o) v z = [if w then .wrInvalid o v z else .rdInvalid o z] := by
  have hu : offsetUnmapped o = false :=
    Bool.eq_false_iff.mpr fun hu => by simp [offsetInvalid_of_unmapped hu] at h
  rw [tableSelect_of_catchAll w v z (.inr h)]
  cases w <;> simp [catchAllRows, rowMatches_catchAllRow, h, hu]

/-- At a mapped offset exactly one row matches, the exact row of that offset and direction. -/
theorem tableSelect_of_mapped (w : Bool) {o : Word} (v : Word) (z : Nat) (h : o ∈ mappedOffsets) :
    tableSelect (accessKey w o) v z = [decodeAccess w o v z] := by
  have hmap : mappedOffsets.map (fun o => tableSelect (accessKey w o) v z) =
      mappedOffsets.map fun o => [decodeAccess w o v z] := by
    cases w <;> rfl
  exact List.map_inj_left.mp hmap o h

/-- The table selects one row for each access, the decoder's (R124). -/
theorem tableSelect_accessKey (w : Bool) (o v : Word) (z : Nat) :
    tableSelect (accessKey w o) v z = [decodeAccess w o v z] := by
  obtain ⟨habove, hunmapped, -⟩ := decodeFollowsTheRegisterMap
  cases hu : offsetUnmapped o with
  | true =>
    obtain ⟨hle, hmod⟩ := offsetUnmapped_iff.mp hu
    rw [tableSelect_of_unmapped w v z hu, hunmapped w o v z hle hmod]
  | false =>
    cases hi : offsetInvalid o with
    | true => rw [tableSelect_of_invalid w v z hi, habove w o v z (offsetInvalid_iff.mp hi)]
    | false => exact tableSelect_of_mapped w v z (mem_mappedOffsets hu hi)

/-- Settles O3: an exact row's offset is mapped, and every other offset is in one catch-all row's set of its
direction. -/
theorem everyKeySelectsExactlyOneRow : Obligations.EveryKeySelectsExactlyOneRow := by
  refine ⟨fun key v z => ?_, fun o h => ?_, exactRows_mapped⟩
  · rw [decodeKey, ← tableSelect_accessKey, accessKey_eq_self]
  · simp [offsetInvalid_of_unmapped h.1] at h

/-! ### Words and pseudo-operations -/

/-- Settles O4: each word is closed, and decoding it is a computation. -/
theorem wordsOfEachFamilyDecode : Obligations.WordsOfEachFamilyDecode := by
  unfold Obligations.WordsOfEachFamilyDecode
  decide

/-- A line of size 8 delivers its value whole (R85). -/
@[simp] theorem decodeRequest_writeRequest_eight (o v : Word) :
    decodeRequest (writeRequest o v 8) = decodeAccess true o v 8 := by
  simp [writeRequest, decodeRequest]

/-- Settles O5: each line's request decodes by the register map, and three writes do not read their value. -/
theorem pseudoOperationsExpand : Obligations.PseudoOperationsExpand := by
  refine ⟨fun i v => ?_, rfl, rfl, rfl, fun v => ?_, fun _ _ => ⟨rfl, rfl, rfl⟩, fun src dst len => ?_⟩ <;>
    simp only [expandPseudo, List.map, decodeRequest_writeRequest_eight]
  · match i with
    | 0 | 1 | 2 | 3 => exact ⟨rfl, rfl⟩
  · exact ⟨rfl, rfl, rfl, rfl⟩
  · exact ⟨rfl, rfl⟩

end Sys2Proof
end

section
/-! PROOFS of the family 40_dispatcher: what the accesses of the register window answer, which of them can meet the
released vectors, and the general registers along a list of transactions. -/

namespace Sys2Proof.Machine

/-! ### Reads -/

/-- The value a register-window read returns: its register's or, where it has none, the sentinel (R150). -/
def readValue (reg : Vector Word 4) : Instr → Word
  | .rdReg0 _ => reg[0]
  | .rdReg1 _ => reg[1]
  | .rdReg2 _ => reg[2]
  | .rdReg3 _ => reg[3]
  | _ => Config.allOnes

/-- The State after the log point of a read outside the mapped window; the other reads have none (R300). -/
def afterReadLog (s : State) : Instr → State
  | .rdUnmapped _ _ | .rdInvalid _ _ => s.logPoint .invalidRegisterAccess
  | _ => s

@[simp] theorem afterReadLog_dev (s : State) (i : Instr) : (afterReadLog s i).dev = s.dev := by cases i <;> rfl

@[simp] theorem afterReadLog_cfg (s : State) (i : Instr) : (afterReadLog s i).cfg = s.cfg := by cases i <;> rfl

@[simp] theorem afterReadLog_life (s : State) (i : Instr) : (afterReadLog s i).life = s.life := by cases i <;> rfl

/-- A log point emits its event or nothing, and the Device does not change (R26). -/
theorem logPoint_optional (s : State) (k : LogKind) :
    (s.logPoint k).dev = s.dev ∧ ((s.logPoint k).trace = s.trace ∨ (s.logPoint k).trace = s.trace ++ [.log k]) := by
  obtain ⟨htrace, hdev, -⟩ := logPointsAreOptional.1 s k
  exact ⟨hdev, htrace⟩

theorem afterReadLog_trace (s : State) (i : Instr) :
    (afterReadLog s i).trace = s.trace ∨ (afterReadLog s i).trace = s.trace ++ [.log .invalidRegisterAccess] := by
  cases i with
  | rdUnmapped | rdInvalid => exact (logPoint_optional s _).2
  | _ => exact .inl rfl

/-- Every read is its value behind the gate of its size, after its log point (R150). -/
theorem exec_read {i : Instr} (h : isRead i = true) :
    ∃ z, ∀ s, exec i s = whenSize z s fun s => returnData z (readValue s.dev.reg i) (afterReadLog s i) := by
  cases i <;> cases h <;> exact ⟨_, fun _ => rfl⟩

/-- A read looks at nothing beyond the life, the fault and the registers (R58). -/
theorem exec_read_congr {i : Instr} {s s' t : State} (hi : isRead i = true) (hsame : SameWindow s s')
    (h : exec i s = .next t) : ∃ t', exec i s' = .next t' ∧ t'.reply = t.reply ∧ SameWindow t t' := by
  obtain ⟨z, hexec⟩ := exec_read hi
  obtain ⟨⟨hl, hf⟩, hz, hk⟩ := whenSize_eq_next (hexec s ▸ h)
  obtain rfl := returnData_eq_next.mp hk
  obtain ⟨hlife, hfault, hreg⟩ := hsame
  have hr' : Ready s' := ⟨hlife ▸ hl, hfault ▸ hf⟩
  refine ⟨_, by rw [hexec, whenSize_of_ready hr' hz]; rfl, by simp [hreg], ?_⟩
  simp [SameWindow, hlife, hfault, hreg]

/-- Settles O15: the State enters a read through its gate and its register alone. -/
theorem readsDependOnTheRegistersOnly : Obligations.ReadsDependOnTheRegistersOnly :=
  fun _ _ _ _ => exec_read_congr

/-- Settles O14: a read writes its reply after its log point, and a State with the same Device has the same window. -/
theorem readsHaveNoSideEffects : Obligations.ReadsHaveNoSideEffects := by
  intro i s t hi h
  obtain ⟨z, hread⟩ := exec_read hi
  obtain ⟨-, -, hk⟩ := whenSize_eq_next (hread s ▸ h)
  obtain rfl := returnData_eq_next.mp hk
  refine ⟨by simp, by simp, by simp, afterReadLog_trace s i, fun u hdev hlife => ?_⟩
  have hsame : SameWindow s u := by simp [SameWindow, hdev, hlife]
  obtain ⟨w, hw, hreply, -⟩ := exec_read_congr hi hsame h
  exact ⟨w, hw, hreply⟩

/-! ### The general registers -/

/-- Settles O9: each register's read by name, its key, the presentation of R85, and the registers after `init` and
`reset`. -/
theorem registerReadsReturnTheRegister : Obligations.RegisterReadsReturnTheRegister :=
  ⟨fun _ _ hr hz =>
      ⟨readReg_of_ready hr hz 0, readReg_of_ready hr hz 1, readReg_of_ready hr hz 2, readReg_of_ready hr hz 3⟩,
    fun _ _ => ⟨rfl, rfl, rfl, rfl⟩, wordOfBytes_bytesOfWord 4,
    fun s t h i => registersChangeOnlyByTheirWriteOrReset.2.1 i s t h⟩

/-- The register written reads back, and the others stay (R156). -/
theorem setReg_getElem (s : State) (i j : Fin 4) (v : Word) :
    (s.setReg i v).dev.reg[j] = if j = i then v else s.dev.reg[j] := by
  split
  · subst j
    simp
  · exact setReg_other s (Ne.symm ‹_›) v

/-- An access delivers the low bytes of the value written (R85). -/
theorem toNat_deliverWrite {z : Nat} (hz : z ≤ 8) (v : Word) : (deliverWrite z v).toNat = v.toNat % 2 ^ (8 * z) := by
  have hpow : 2 ^ (8 * z) ≤ 2 ^ 64 := Nat.pow_le_pow_right (by omega) (by omega)
  have hlt : v.toNat % 2 ^ (8 * z) < 2 ^ (8 * z) := Nat.mod_lt _ (by positivity)
  simp only [deliverWrite, BitVec.toNat_setWidth]
  exact Nat.mod_eq_of_lt (hlt.trans_le hpow)

/-- Settles O10: each register's write by name, its frame in the register file, its key, and D10 at 4 bytes. -/
theorem registerWritesStoreTheValue : Obligations.RegisterWritesStoreTheValue :=
  ⟨fun _ _ v hr hz =>
      ⟨writeReg_of_ready hr hz 0 v, writeReg_of_ready hr hz 1 v, writeReg_of_ready hr hz 2 v,
        writeReg_of_ready hr hz 3 v⟩,
    setReg_getElem, fun _ _ => ⟨rfl, rfl, rfl, rfl⟩, toNat_deliverWrite (by omega)⟩

/-! ### Unmapped and invalid offsets -/

/-- Settles O12: both catch-all reads are one operation, and the register map gives them their offsets. -/
theorem unmappedAndInvalidReadsReturnTheSentinel : Obligations.UnmappedAndInvalidReadsReturnTheSentinel := by
  obtain ⟨habove, hunmapped, -⟩ := decodeFollowsTheRegisterMap
  refine ⟨fun s o z hr hz i hi => ?_, fun s => logPoint_optional s _, fun o z v =>
    ⟨fun hle hmod => hunmapped false o _ z hle hmod, fun ho => habove false o _ z ho⟩⟩
  obtain rfl | rfl : i = .rdUnmapped o z ∨ i = .rdInvalid o z := by simpa using hi
  · exact readNowhere_of_ready hr hz
  · exact readNowhere_of_ready hr hz

/-- Settles O13: both catch-all writes are one operation, and the register map gives them their offsets. -/
theorem unmappedAndInvalidWritesDoNothing : Obligations.UnmappedAndInvalidWritesDoNothing := by
  obtain ⟨habove, hunmapped, -⟩ := decodeFollowsTheRegisterMap
  refine ⟨fun s o v z hr hz i hi => ?_, fun s => logPoint_optional s _, fun o z v =>
    ⟨fun hle hmod => hunmapped true o _ z hle hmod, fun ho => habove true o _ z ho⟩⟩
  obtain rfl | rfl : i = .wrUnmapped o v z ∨ i = .wrInvalid o v z := by simpa using hi
  · exact writeNowhere_of_ready hr hz
  · exact writeNowhere_of_ready hr hz

/-! ### The last write of a register -/

theorem execute_keepsReady {s t : State} (hr : Ready s) (h : execute s = .next t) : Ready t := by
  obtain ⟨-, rfl⟩ | ⟨a, -, -, rfl⟩ | ⟨a, -, -, -, -, rfl⟩ := execute_eq_next h <;> simpa [Ready] using hr

/-- A transaction leaves a Device that exists and has not faulted (R56). -/
theorem exec_next_ready {i : Instr} {s t : State} (h : exec i s = .next t) : Ready t := by
  obtain ⟨htaken, ht⟩ := exec_eq_next h
  cases i with
  | init => cases ht; exact ⟨rfl, rfl⟩
  | wrIrqRaise | wrIrqLower | reset => obtain ⟨-, rfl⟩ := ht; exact htaken.1
  | wrDmaSrc | wrDmaDst | wrDmaLen | wrDmaCmd => obtain ⟨-, rfl⟩ | ⟨-, rfl⟩ := ht <;> exact htaken.1
  | wrDoorbell =>
    obtain ⟨-, rfl⟩ | ⟨-, -, u, hu, rfl⟩ | ⟨-, -, rfl⟩ := ht
    · exact htaken.1
    · have hready := execute_keepsReady (s := s.setStatus .executing) htaken.1 hu
      exact hready
    · exact htaken.1
  | finalize =>
    obtain ⟨-, u, rfl, rfl⟩ := ht
    split <;> exact htaken.1
  | _ => cases ht; exact htaken.1

/-- A Device that is ready takes no `init` (R364). -/
theorem ne_init_of_ready {i : Instr} {s t : State} (hr : Ready s) (h : exec i s = .next t) : i ≠ .init := by
  rintro rfl
  obtain ⟨habsent, -⟩ := exec_eq_next h
  exact nomatch hr.1.symm.trans habsent

/-- Along transactions that neither write register `i` nor reset the Device, the register stays (R43, R98). -/
theorem execAll_keepsReg {i : Fin 4} {is : List Instr} {s t : State} (hr : Ready s)
    (his : ∀ j ∈ is, writesReg i j = false ∧ j ≠ .reset) (h : execAll is s = .next t) :
    Ready t ∧ t.dev.reg[i] = s.dev.reg[i] := by
  induction is generalizing s with
  | nil => cases h; exact ⟨hr, rfl⟩
  | cons j rest ih =>
    obtain ⟨⟨hj, hreset⟩, hrest⟩ := List.forall_mem_cons.mp his
    obtain ⟨u, hu, ht⟩ := andThen_eq_next h
    obtain ⟨hready, hreg⟩ := ih (exec_next_ready hu) hrest ht
    exact ⟨hready, hreg.trans (exec_keepsReg hu hj hreset (ne_init_of_ready hr hu))⟩

theorem exec_readOf (i : Fin 4) (z : Nat) (s : State) : exec (readOf i z) s = readReg i z s := by
  match i with
  | 0 | 1 | 2 | 3 => rfl

theorem exec_writeOf (i : Fin 4) (v : Word) (z : Nat) (s : State) : exec (writeOf i v z) s = writeReg i v z s := by
  match i with
  | 0 | 1 | 2 | 3 => rfl

/-- After the transactions a read returns what the register held before them. -/
theorem exec_readOf_after {i : Fin 4} {is : List Instr} {t u : State} {y : Nat} (hr : Ready t)
    (h : execAll is t = .next u) (hy : sizeOk y = true) (his : ∀ j ∈ is, writesReg i j = false ∧ j ≠ .reset) :
    exec (readOf i y) u = .next (u.setReply (some (.data y t.dev.reg[i]))) := by
  obtain ⟨hready, hreg⟩ := execAll_keepsReg hr his h
  rw [exec_readOf, readReg_of_ready hready hy, hreg]

/-- Settles O55: the write or the hook sets the register, and no transaction after it changes it. -/
theorem readsReturnTheLastWrite : Obligations.ReadsReturnTheLastWrite := by
  intro i is s t u v z y hall hy his
  refine ⟨fun h => ?_, fun h => ?_⟩
  · have hv : t.dev.reg[i] = v := by
      obtain ⟨-, -, rfl⟩ := writeReg_eq_next (exec_writeOf i v z s ▸ h)
      exact (setReg_getElem s i i v).trans (if_pos rfl)
    rw [exec_readOf_after (exec_next_ready h) hall hy his, hv]
  · have hready : Ready t := h.elim exec_next_ready exec_next_ready
    have hzero : t.dev.reg[i] = 0 := registersChangeOnlyByTheirWriteOrReset.2.1 i s t h
    rw [exec_readOf_after hready hall hy his, hzero]

/-! ### The diagnostic interrupt writes -/

theorem setVectorFlag_zero (raised : Vector Bool 32) (b : Bool) : setVectorFlag raised 0 b = raised.set 0 b := by
  ext k hk
  simp [setVectorFlag, Vector.getElem_setIfInBounds, Vector.getElem_set]

theorem irqLive_of_pin {s : State} {b : Bool} (h : s.dev.irq = .pin b) : IrqLive s := by
  simp [IrqLive, isMessage, h]

theorem irqLive_of_not_released {s : State} (h : s.dev.released = false) : IrqLive s := fun _ => h

theorem raiseIrq_of_pin {s : State} {b : Bool} (h : s.dev.irq = .pin b) (v : Nat) :
    raiseIrq v s = .next ((s.setIrq (.pin true)).emit (.assertLine true)) := by
  simp [raiseIrq, h]

theorem lowerIrq_of_pin {s : State} {b : Bool} (h : s.dev.irq = .pin b) (v : Nat) :
    lowerIrq v s = .next ((s.setIrq (.pin false)).emit (.assertLine false)) := by
  simp [lowerIrq, h]

/-- After the release, in message mode, every vector's raise faults (R276). -/
theorem raiseIrq_of_released {s : State} (hm : isMessage s.dev.irq = true) (h : s.dev.released = true) (v : Nat) :
    raiseIrq v s = .fault .irqAfterRelease := by
  cases hirq : s.dev.irq with
  | pin b => simp [hirq, isMessage] at hm
  | message raised => simp [raiseIrq, hirq, h, raiseFault]

/-- After the release, in message mode, every vector's lower faults (R276). -/
theorem lowerIrq_of_released {s : State} (hm : isMessage s.dev.irq = true) (h : s.dev.released = true) (v : Nat) :
    lowerIrq v s = .fault .irqAfterRelease := by
  cases hirq : s.dev.irq with
  | pin b => simp [hirq, isMessage] at hm
  | message raised => simp [lowerIrq, hirq, h, raiseFault]

section
variable {s : State} {z : Nat}

theorem exec_wrIrqRaise_of_live (hr : Ready s) (hz : sizeOk z = true) (hl : IrqLive s) (v : Word) :
    exec (.wrIrqRaise v z) s =
      .next (((s.setIrq (irqRaised s.dev.irq)).emit (raiseEvent s.dev.irq)).setReply (some .ack)) := by
  rw [exec, execWrIrqRaise, whenSize_of_ready hr hz]
  show andThen (raiseIrq 0 s) returnAck = _
  rw [raiseIrq_of_live hl]
  rfl

theorem exec_wrIrqLower_of_live (hr : Ready s) (hz : sizeOk z = true) (hl : IrqLive s) (v : Word) :
    exec (.wrIrqLower v z) s = .next ((lowered s).setReply (some .ack)) := by
  rw [exec, execWrIrqLower, whenSize_of_ready hr hz]
  show andThen (lowerIrq 0 s) returnAck = _
  rw [lowerIrq_of_live hl]
  rfl

theorem exec_wrIrqRaise_of_released (hr : Ready s) (hz : sizeOk z = true) (hm : isMessage s.dev.irq = true)
    (h : s.dev.released = true) (v : Word) : exec (.wrIrqRaise v z) s = .fault .irqAfterRelease := by
  rw [exec, execWrIrqRaise, whenSize_of_ready hr hz, raiseIrq_of_released hm h, andThen_fault]

theorem exec_wrIrqLower_of_released (hr : Ready s) (hz : sizeOk z = true) (hm : isMessage s.dev.irq = true)
    (h : s.dev.released = true) (v : Word) : exec (.wrIrqLower v z) s = .fault .irqAfterRelease := by
  rw [exec, execWrIrqLower, whenSize_of_ready hr hz, lowerIrq_of_released hm h, andThen_fault]

end

theorem isMessage_of_eq {irq : IrqState} {raised : Vector Bool 32} (h : irq = .message raised) :
    isMessage irq = true := by
  rw [h]; rfl

/-- Settles O17: where interrupts are live the write raises vector 0, and after the release it faults. -/
theorem diagnosticRaiseDelivers : Obligations.DiagnosticRaiseDelivers := by
  refine ⟨fun s v z b hr hz hirq => ?_, fun s v z raised hr hz hirq hrel => ?_,
    fun s v z raised hr hz hirq hrel => exec_wrIrqRaise_of_released hr hz (isMessage_of_eq hirq) hrel v,
    fun _ _ => rfl⟩
  · rw [exec_wrIrqRaise_of_live hr hz (irqLive_of_pin hirq), hirq]
    rfl
  · rw [exec_wrIrqRaise_of_live hr hz (irqLive_of_not_released hrel), hirq, ← setVectorFlag_zero]
    rfl

/-- A raise of vector 0 lowers no flag. -/
theorem raisedFlag_irqRaised {irq : IrqState} {v : Nat} (h : raisedFlag irq v = true) :
    raisedFlag (irqRaised irq) v = true := by
  cases irq with
  | pin b => rfl
  | message raised =>
    show vectorFlag (setVectorFlag raised 0 true) v = true
    rw [vectorFlag_set raised (by omega)]
    split
    · rfl
    · exact h

/-- A transfer raises vector 0 or leaves the interrupt state as it is. -/
theorem execute_keepsRaised {s t : State} {v : Nat} (hv : raisedFlag s.dev.irq v = true)
    (h : execute s = .next t) : raisedFlag t.dev.irq v = true := by
  obtain ⟨-, rfl⟩ | ⟨a, -, -, rfl⟩ | ⟨a, -, -, -, -, rfl⟩ := execute_eq_next h
  · exact hv
  · exact hv
  · simpa using raisedFlag_irqRaised hv

/-- Of the register-window accesses WR_IRQ_LOWER alone lowers a flag (R161). -/
theorem exec_keepsRaised {i : Instr} {s t : State} {v : Nat} (h : exec i s = .next t) (hhook : isHook i = false)
    (hlower : ∀ x z, i ≠ .wrIrqLower x z) (hv : raisedFlag s.dev.irq v = true) :
    raisedFlag t.dev.irq v = true := by
  have ht := (exec_eq_next h).2
  cases i with
  | wrIrqLower x z => exact absurd rfl (hlower x z)
  | init | reset | finalize => cases hhook
  | wrIrqRaise => obtain ⟨-, rfl⟩ := ht; exact raisedFlag_irqRaised hv
  | wrDoorbell =>
    obtain ⟨-, rfl⟩ | ⟨-, -, u, hu, rfl⟩ | ⟨-, -, rfl⟩ := ht
    · exact hv
    · have hraised := execute_keepsRaised (s := s.setStatus .executing) hv hu
      exact hraised
    · exact hv
  | wrDmaSrc | wrDmaDst | wrDmaLen | wrDmaCmd => obtain ⟨-, rfl⟩ | ⟨-, rfl⟩ := ht <;> exact hv
  | _ => cases ht; exact hv

/-- Settles O18: where interrupts are live the write lowers vector 0, after the release it faults, and the other
accesses raise flags or leave them. -/
theorem diagnosticLowerClears : Obligations.DiagnosticLowerClears := by
  refine ⟨fun s v z b hr hz hirq => ?_, fun s v z raised hr hz hirq hrel => ?_,
    fun s v z raised hr hz hirq hrel => exec_wrIrqLower_of_released hr hz (isMessage_of_eq hirq) hrel v,
    fun _ _ => rfl, fun i s t v => exec_keepsRaised⟩
  · rw [exec_wrIrqLower_of_live hr hz (irqLive_of_pin hirq), lowered, hirq]
    rfl
  · rw [exec_wrIrqLower_of_live hr hz (irqLive_of_not_released hrel), lowered, hirq, ← setVectorFlag_zero]
    simp [irqLowered, lowerEvents, State.setIrq]

/-! ### The fault after the release -/

section
variable {s : State} {f : Fault} (hf : s.dev.fault = none)
include hf

/-- Where the Device has not faulted a fault behind the gate is the transaction's own. -/
theorem whenAlive_fault_own {k : State → Result} (h : whenAlive s k = .fault f) : k s = .fault f := by
  obtain hsticky | ⟨-, hk⟩ := whenAlive_eq_fault h
  · exact nomatch hf.symm.trans hsticky
  · exact hk

theorem whenSize_fault_own {size : Nat} {k : State → Result} (h : whenSize size s k = .fault f) :
    k s = .fault f := by
  obtain hsticky | ⟨-, hk⟩ := whenSize_eq_fault h
  · exact nomatch hf.symm.trans hsticky
  · exact hk

/-- Past the checks of `reset` and `finalize` the Device is not Off (R363). -/
theorem whenHookAllowed_eq_irqAfterRelease {k : State → Result}
    (h : whenHookAllowed s k = .fault .irqAfterRelease) : s.dev.status ≠ .off ∧ k s = .fault .irqAfterRelease := by
  have hk := whenAlive_fault_own hf h
  split at hk
  · cases hk
  · split at hk
    · cases hk
    · exact ⟨‹_›, hk⟩

end

section
variable {s : State}

theorem raiseIrq_eq_fault {f : Fault} (h : raiseIrq 0 s = .fault f) : ¬ IrqLive s :=
  fun hl => nomatch (raiseIrq_of_live hl).symm.trans h

theorem lowerIrq_eq_fault {f : Fault} (h : lowerIrq 0 s = .fault f) : ¬ IrqLive s :=
  fun hl => nomatch (lowerIrq_of_live hl).symm.trans h

theorem andThen_returnAck_eq_fault {r : Result} {g : State → State} {f : Fault}
    (h : andThen r (fun u => returnAck (g u)) = .fault f) : r = .fault f := by
  obtain hr | ⟨u, -, hk⟩ := andThen_eq_fault h
  · exact hr
  · exact absurd hk returnAck_ne_fault

theorem exec_read_ne_fault {i : Instr} {f : Fault} (hf : s.dev.fault = none) (hi : isRead i = true) :
    exec i s ≠ .fault f := by
  obtain ⟨z, hread⟩ := exec_read hi
  rw [hread]
  exact fun h => absurd (whenSize_fault_own hf h) returnData_ne_fault

theorem writeReg_ne_fault {i : Fin 4} {v : Word} {size : Nat} {f : Fault} (hf : s.dev.fault = none) :
    writeReg i v size s ≠ .fault f :=
  fun h => absurd (whenSize_fault_own hf h) returnAck_ne_fault

theorem writeNowhere_ne_fault {size : Nat} {f : Fault} (hf : s.dev.fault = none) : writeNowhere size s ≠ .fault f :=
  fun h => absurd (whenSize_fault_own hf h) returnAck_ne_fault

theorem execWrIrqRaise_eq_fault {v : Word} {size : Nat} {f : Fault} (hf : s.dev.fault = none)
    (h : execWrIrqRaise v size s = .fault f) : ¬ IrqLive s :=
  raiseIrq_eq_fault (andThen_returnAck_eq_fault (g := id) (whenSize_fault_own hf h))

theorem execWrIrqLower_eq_fault {v : Word} {size : Nat} {f : Fault} (hf : s.dev.fault = none)
    (h : execWrIrqLower v size s = .fault f) : ¬ IrqLive s :=
  lowerIrq_eq_fault (andThen_returnAck_eq_fault (g := id) (whenSize_fault_own hf h))

theorem initAgain_ne_irqAfterRelease : initAgain s ≠ .fault .irqAfterRelease := by
  unfold initAgain
  split <;> nofun

theorem execInit_ne_irqAfterRelease (hf : s.dev.fault = none) : execInit s ≠ .fault .irqAfterRelease := by
  intro h
  rw [execInit_eq] at h
  split at h
  · exact returnAck_ne_fault h
  · exact initAgain_ne_irqAfterRelease (whenAlive_fault_own hf h)

/-- Only a completion interrupt gives a transfer the fault after the release (R218, R276). -/
theorem execute_eq_irqAfterRelease (h : execute s = .fault .irqAfterRelease) : ¬ IrqLive s := by
  unfold execute at h
  split at h
  · cases h
  · obtain ⟨rfl, -⟩ := issue_eq_fault ‹_›
    cases h
  · obtain ⟨a, ha, hfits, rfl⟩ := issue_eq_call ‹_›
    intro hl
    exact land_eq_fault h ⟨by simpa using LandFits.of_fits ha hfits, by simpa [IrqLive] using hl⟩

/-- A doorbell faults only where it won the swap, and then in its transfer (R210). -/
theorem execWrDoorbell_eq_fault {v : Word} {size : Nat} {f : Fault} (hf : s.dev.fault = none)
    (h : execWrDoorbell v size s = .fault f) :
    s.dev.status = .idle ∧ execute (s.setStatus .executing) = .fault f := by
  have hk := whenSize_fault_own hf h
  by_cases hidle : s.dev.status = .idle
  · rw [ringSerialized_of_idle hidle, ringAccept_of_idle hidle] at hk
    split at hk
    · exact ⟨hidle, andThen_returnAck_eq_fault hk⟩
    · cases hk
  · rw [ringSerialized_of_busy hidle, ringAccept_of_busy hidle, ite_self] at hk
    exact absurd hk returnAck_ne_fault

theorem configure_ne_fault {g : DmaConfig → DmaConfig} {size : Nat} {f : Fault} (hf : s.dev.fault = none) :
    configure g size s ≠ .fault f := by
  intro h
  have hk := whenSize_fault_own hf h
  split at hk <;> exact returnAck_ne_fault hk

theorem irqFinalize_eq_fault {f : Fault} (h : irqFinalize s = .fault f) : ¬ IrqLive s := by
  obtain hl | ⟨u, -, hk⟩ := andThen_eq_fault h
  · exact lowerIrq_eq_fault hl
  · split at hk <;> cases hk

theorem execReset_eq_irqAfterRelease (hf : s.dev.fault = none) (h : execReset s = .fault .irqAfterRelease) :
    ¬ IrqLive s ∧ s.dev.status ≠ .off := by
  obtain ⟨ho, hk⟩ := whenHookAllowed_eq_irqAfterRelease hf h
  exact ⟨lowerIrq_eq_fault (s := dmaReset s.clearRegs) (andThen_returnAck_eq_fault (g := id) hk), ho⟩

theorem execFinalize_eq_irqAfterRelease (hf : s.dev.fault = none) (h : execFinalize s = .fault .irqAfterRelease) :
    ¬ IrqLive s ∧ s.dev.status ≠ .off := by
  obtain ⟨ho, hk⟩ := whenHookAllowed_eq_irqAfterRelease hf h
  exact ⟨irqFinalize_eq_fault (andThen_returnAck_eq_fault hk), ho⟩

/-- The fault after the release comes of a raise or a lower, and, on a Device that is Off, of the two diagnostic
writes alone: the doorbell is dropped there and the hooks are stopped (R210, R363, R276). -/
theorem exec_eq_irqAfterRelease {i : Instr} (hf : s.dev.fault = none) (h : exec i s = .fault .irqAfterRelease) :
    ¬ IrqLive s ∧ ((∃ x z, i = .wrIrqRaise x z ∨ i = .wrIrqLower x z) ∨ s.dev.status ≠ .off) := by
  cases i with
  | wrReg0 | wrReg1 | wrReg2 | wrReg3 => exact absurd h (writeReg_ne_fault hf)
  | wrUnmapped | wrInvalid => exact absurd h (writeNowhere_ne_fault hf)
  | wrDmaSrc v => exact absurd h (configure_ne_fault (g := fun d => { d with src := v }) hf)
  | wrDmaDst v => exact absurd h (configure_ne_fault (g := fun d => { d with dst := v }) hf)
  | wrDmaLen v => exact absurd h (configure_ne_fault (g := fun d => { d with len := v }) hf)
  | wrDmaCmd v => exact absurd h (configure_ne_fault (g := fun d => { d with cmd := v }) hf)
  | wrIrqRaise x z => exact ⟨execWrIrqRaise_eq_fault (v := x) hf h, .inl ⟨x, z, .inl rfl⟩⟩
  | wrIrqLower x z => exact ⟨execWrIrqLower_eq_fault (v := x) hf h, .inl ⟨x, z, .inr rfl⟩⟩
  | wrDoorbell v =>
    obtain ⟨hidle, hx⟩ := execWrDoorbell_eq_fault (v := v) hf h
    exact ⟨execute_eq_irqAfterRelease (s := s.setStatus .executing) hx, .inr (by simp [hidle])⟩
  | init => exact absurd h (execInit_ne_irqAfterRelease hf)
  | reset => exact (execReset_eq_irqAfterRelease hf h).imp_right .inr
  | finalize => exact (execFinalize_eq_irqAfterRelease hf h).imp_right .inr
  | _ => exact absurd h (exec_read_ne_fault hf rfl)

/-- In a state of the invariant the vectors of a Device in flight are its own, so its agent's interrupt is delivered
(R57, R276). -/
theorem agentTurn_ne_irqAfterRelease (hinv : Inv s) : agentTurn s ≠ .fault .irqAfterRelease := by
  intro h
  cases hl : s.life with
  | absent | tornDown => simp [agentTurn, hl] at h
  | present =>
    have hdev := hinv.device (by simp [hl])
    have hr : Ready s := ⟨hl, hdev.fault⟩
    cases hser : s.cfg.serialized with
    | true => cases (agentTurn_of_serialized hinv hl hser).symm.trans h
    | false =>
      rcases hin : s.dev.inflight with _ | _ | _ | _
      · cases (agentTurn_of_none hr hin).symm.trans h
      · rw [agentTurn_of_started hr hser hin, agentIssue] at h
        split at h
        · cases h
        · obtain ⟨rfl, -⟩ := issue_eq_fault ‹_›
          cases h
        · cases h
      · rw [agentTurn_of_awaitBus hr hser hin] at h
        obtain hland | ⟨u, -, hk⟩ := andThen_eq_fault h
        · obtain ⟨a, ha, hfits⟩ := hdev.awaited hin
          have hx : s.dev.status = .executing := hdev.inflight.mpr (by simp [hin])
          have hlive : IrqLive s := irqLive_of_not_released (hdev.released_eq_false (by simp [hx]))
          exact land_eq_fault hland ⟨LandFits.of_fits ha hfits, hlive⟩
        · cases hk
      · cases (agentTurn_of_raised hr hser hin).symm.trans h

end

/-- Settles O21: the released vectors are those of a Device that is Off, where the two writes alone raise or lower. -/
theorem releasedVectorsFault : Obligations.ReleasedVectorsFault := by
  refine ⟨fun s v z x hm hrel => ⟨raiseIrq_of_released hm hrel v, lowerIrq_of_released hm hrel v,
    fun hr hz => ⟨exec_wrIrqRaise_of_released hr hz hm hrel x, exec_wrIrqLower_of_released hr hz hm hrel x⟩⟩,
    fun s v hm => ?_, fun s hinv => ⟨fun i hl h => ?_, agentTurn_ne_irqAfterRelease hinv⟩⟩
  · cases hirq : s.dev.irq with
    | pin b => exact ⟨_, _, raiseIrq_of_pin hirq v, lowerIrq_of_pin hirq v⟩
    | message raised => simp [hirq, isMessage] at hm
  · have hdev := hinv.device hl
    obtain ⟨hlive, hwho⟩ := exec_eq_irqAfterRelease hdev.fault h
    obtain ⟨hm, hrel⟩ : isMessage s.dev.irq = true ∧ s.dev.released = true := by simpa [IrqLive] using hlive
    have ho : s.dev.status = .off := (hdev.released.mp hrel).1
    exact ⟨hm, ho, hwho.resolve_right fun hno => hno ho⟩

end Sys2Proof.Machine
end

section
/-! PROOFS of the family 41_dma: the window and the mask as arithmetic, what each kind of doorbell answers, what a
transfer writes and emits, the agent's three turns, and what still works after `finalize`. -/

namespace Sys2Proof

open Machine

/-! ### The window and the mask as arithmetic -/

theorem inWindow_iff {a : Word} : inWindow a = true ↔ 0x10000 ≤ a.toNat ∧ a.toNat ≤ 0x11000 := by
  simp [inWindow, areaStart_eq, areaSize_eq]

/-- A device address at or above the window's start, whose transfer ends inside the buffer, is in the window
(R211, R371). -/
theorem transferFits_iff {a len : Word} :
    TransferFits a len ↔ 0x10000 ≤ a.toNat ∧ a.toNat - 0x10000 + len.toNat ≤ 0x1000 := by
  rw [TransferFits, inWindow_iff, bufOffset_eq, areaSize_eq]
  omega

theorem deviceSide_toDevice {d : DmaConfig} (h : d.cmd = Config.cmdToDevice) : deviceSide d = some d.dst := by
  simp [deviceSide, h]

/-- The two commands of a transfer are different words (R212). -/
theorem ne_toDevice_of_fromDevice {c : Word} (h : c = Config.cmdFromDevice) : c ≠ Config.cmdToDevice := by
  rw [h]; decide

theorem deviceSide_fromDevice {d : DmaConfig} (h : d.cmd = Config.cmdFromDevice) : deviceSide d = some d.src := by
  rw [deviceSide, if_neg (ne_toDevice_of_fromDevice h), if_pos h]

theorem deviceSide_of_other {d : DmaConfig} (h1 : d.cmd ≠ Config.cmdToDevice) (h2 : d.cmd ≠ Config.cmdFromDevice) :
    deviceSide d = none := by
  simp [deviceSide, h1, h2]

/-- The two commands of a transfer and their device-side addresses (R213, R214). -/
theorem deviceSide_of_command {d : DmaConfig} {a : Word}
    (h : (d.cmd = Config.cmdToDevice ∧ a = d.dst) ∨ (d.cmd = Config.cmdFromDevice ∧ a = d.src)) :
    deviceSide d = some a := by
  obtain ⟨hcmd, rfl⟩ | ⟨hcmd, rfl⟩ := h
  · exact deviceSide_toDevice hcmd
  · exact deviceSide_fromDevice hcmd

/-- The device-side address of either command lies outside the window (R219). -/
theorem deviceSide_out_of_window {d : DmaConfig}
    (h : (d.cmd = Config.cmdToDevice ∧ ¬ (0x10000 ≤ d.dst.toNat ∧ d.dst.toNat ≤ 0x11000)) ∨
      (d.cmd = Config.cmdFromDevice ∧ ¬ (0x10000 ≤ d.src.toNat ∧ d.src.toNat ≤ 0x11000))) :
    ∃ a, deviceSide d = some a ∧ inWindow a = false := by
  obtain ⟨hcmd, hout⟩ | ⟨hcmd, hout⟩ := h
  · exact ⟨_, deviceSide_toDevice hcmd, Bool.eq_false_iff.mpr (hout ∘ inWindow_iff.mp)⟩
  · exact ⟨_, deviceSide_fromDevice hcmd, Bool.eq_false_iff.mpr (hout ∘ inWindow_iff.mp)⟩

theorem toNat_capabilityMask {w : Nat} (hw : w ≤ 64) : (capabilityMask w).toNat = 2 ^ w - 1 := by
  obtain hlt | rfl := Nat.lt_or_eq_of_le hw
  · have hpow : 2 ^ w < 2 ^ 64 := Nat.pow_lt_pow_right (by omega) hlt
    rw [capabilityMask, if_pos hlt, BitVec.toNat_ofNat]
    exact Nat.mod_eq_of_lt (by omega)
  · rfl

/-- Settles O25: the mask is `2^w - 1`, whose bits are those below `w`. -/
theorem capabilityMaskKeepsLowBits : Obligations.CapabilityMaskKeepsLowBits := by
  intro w a _ hw
  refine ⟨fun i _ => ?_, ?_⟩
  · rw [BitVec.getLsbD, toNat_capabilityMask hw]
    exact Nat.testBit_two_pow_sub_one w i
  · rw [maskedAddr, BitVec.toNat_and, toNat_capabilityMask hw]
    exact Nat.and_two_pow_sub_one_eq_mod _ w

end Sys2Proof

namespace Sys2Proof.Machine

/-! ### The configuration writes -/

section
variable {s : State} {z : Nat} (hr : Ready s) (hz : sizeOk z = true) (f : DmaConfig → DmaConfig)
include hr hz

theorem configure_of_idle (hi : s.dev.status = .idle) :
    configure f z s = .next ((s.setDma (f s.dev.dma)).setReply (some .ack)) := by
  rw [configure, whenSize_of_ready hr hz, if_pos hi, returnAck]

theorem configure_of_busy (hi : s.dev.status ≠ .idle) :
    configure f z s = .next ((s.logPoint .configWhileBusy).setReply (some .ack)) := by
  rw [configure, whenSize_of_ready hr hz, if_neg hi, returnAck]

end

/-- While the engine is not Idle the four configuration writes are one and the same: a log point (R204). -/
theorem exec_configWrite_of_busy {s : State} {z : Nat} (hr : Ready s) (hz : sizeOk z = true)
    (hi : s.dev.status ≠ .idle) (v : Word) :
    ∀ i ∈ [Instr.wrDmaSrc v z, .wrDmaDst v z, .wrDmaLen v z, .wrDmaCmd v z],
      exec i s = .next ((s.logPoint .configWhileBusy).setReply (some .ack)) := by
  simp only [List.forall_mem_cons, List.not_mem_nil, false_implies, implies_true, and_true]
  exact ⟨configure_of_busy hr hz (fun d => { d with src := v }) hi,
    configure_of_busy hr hz (fun d => { d with dst := v }) hi,
    configure_of_busy hr hz (fun d => { d with len := v }) hi,
    configure_of_busy hr hz (fun d => { d with cmd := v }) hi⟩

/-- Settles O22: the gate's two answers, its log point, and the keys. -/
theorem configurationWritesPassTheGate : Obligations.ConfigurationWritesPassTheGate :=
  ⟨fun _ v _ hr hz hi =>
      ⟨configure_of_idle hr hz (fun d => { d with src := v }) hi,
        configure_of_idle hr hz (fun d => { d with dst := v }) hi,
        configure_of_idle hr hz (fun d => { d with len := v }) hi,
        configure_of_idle hr hz (fun d => { d with cmd := v }) hi⟩,
    fun _ v _ hr hz hi => exec_configWrite_of_busy hr hz hi v, fun s => logPoint_optional s _,
    fun _ _ => ⟨rfl, rfl, rfl, rfl⟩⟩

/-! ### Who writes the configuration -/

theorem execute_keepsDma {s t : State} (h : execute s = .next t) : t.dev.dma = s.dev.dma := by
  obtain ⟨-, rfl⟩ | ⟨a, -, -, rfl⟩ | ⟨a, -, -, -, -, rfl⟩ := execute_eq_next h <;> simp

theorem agentTurn_keepsDma {s t : State} (h : agentTurn s = .next t) : t.dev.dma = s.dev.dma := by
  obtain rfl | ⟨-, -, ⟨-, u, hu, rfl⟩ | ⟨-, u, hu, rfl⟩ | ⟨-, -, -, -, rfl⟩ | ⟨-, rfl⟩⟩ := agentTurn_eq_next h
  · rfl
  · obtain ⟨-, rfl⟩ | ⟨a, -, -, rfl⟩ := issue_eq_noCall hu <;> rfl
  · obtain ⟨a, -, -, rfl⟩ := issue_eq_call hu
    simp
  · simp
  · rfl

/-- Besides the hooks only a configuration write that passes the gate writes the configuration (R205). -/
theorem exec_keepsDma {i : Instr} {s t : State} (h : exec i s = .next t) (hhook : isHook i = false)
    (hgate : isConfigWrite i = false ∨ s.dev.status ≠ .idle) : t.dev.dma = s.dev.dma := by
  have ht := (exec_eq_next h).2
  cases i with
  | init | reset | finalize => cases hhook
  | wrDmaSrc | wrDmaDst | wrDmaLen | wrDmaCmd =>
    obtain ⟨hidle, -⟩ | ⟨-, rfl⟩ := ht
    · exact absurd hidle (hgate.resolve_left nofun)
    · rfl
  | wrIrqRaise | wrIrqLower => obtain ⟨-, rfl⟩ := ht; rfl
  | wrDoorbell =>
    obtain ⟨-, rfl⟩ | ⟨-, -, u, hu, rfl⟩ | ⟨-, -, rfl⟩ := ht
    · rfl
    · have hdma := execute_keepsDma hu
      exact hdma
    · rfl
  | _ => cases ht; rfl

/-- Settles O23: no transaction but an accepted write, no phase of a transfer and no teardown writes it. -/
theorem configurationPersists : Obligations.ConfigurationPersists := by
  refine ⟨fun i s t => exec_keepsDma, fun s t h => ?_⟩
  obtain ha | hd := h
  · exact agentTurn_keepsDma ha
  · obtain ⟨-, rfl⟩ := teardown_eq_next hd
    rfl

/-! ### What a doorbell answers -/

section
variable {s : State} {z : Nat} (hr : Ready s) (hz : sizeOk z = true) (v : Word)
include hr hz

/-- A lost compare-and-swap drops the doorbell in both regimes (R210). -/
theorem exec_wrDoorbell_of_busy (hi : s.dev.status ≠ .idle) :
    exec (.wrDoorbell v z) s = .next (s.setReply (some .ack)) := by
  rw [exec, execWrDoorbell, whenSize_of_ready hr hz, ringSerialized_of_busy hi, ringAccept_of_busy hi, ite_self,
    returnAck]

variable (hser : s.cfg.serialized = true) (hi : s.dev.status = .idle)
include hser hi

theorem exec_wrDoorbell_of_no_command (h : deviceSide s.dev.dma = none) :
    exec (.wrDoorbell v z) s = .next (s.setReply (some .ack)) := by
  rw [execWrDoorbell_of_serialized hr hz hser hi, execute_of_no_command (s := s.setStatus .executing) h, andThen_next]
  show returnAck (s.setStatus .idle) = _
  rw [State.setStatus_self hi, returnAck]

theorem exec_wrDoorbell_of_out_of_window {a : Word} (h : deviceSide s.dev.dma = some a) (hw : inWindow a = false) :
    exec (.wrDoorbell v z) s = .next ((s.logPoint .transferOutOfBounds).setReply (some .ack)) := by
  rw [execWrDoorbell_of_serialized hr hz hser hi, execute_of_out_of_window (s := s.setStatus .executing) h hw,
    andThen_next]
  show returnAck ((s.setStatus .idle).logPoint .transferOutOfBounds) = _
  rw [State.setStatus_self hi, returnAck]

theorem exec_wrDoorbell_of_overrun {a : Word} (h : deviceSide s.dev.dma = some a) (hw : inWindow a = true)
    (ho : Config.areaSize < bufOffset a + s.dev.dma.len.toNat) :
    exec (.wrDoorbell v z) s = .fault .bufferOverrun := by
  rw [execWrDoorbell_of_serialized hr hz hser hi, execute_of_overrun (s := s.setStatus .executing) h hw ho,
    andThen_fault]

/-- A transfer that fits: the call is made, its answer lands, the write returns (R210, R213, R214). -/
theorem exec_wrDoorbell_of_fits {a : Word} (h : deviceSide s.dev.dma = some a) (hf : TransferFits a s.dev.dma.len)
    (hl : IrqLive s) (hb : s.busReturns = true) :
    exec (.wrDoorbell v z) s = .next ((landed (issued s a)).setReply (some .ack)) := by
  rw [execWrDoorbell_of_serialized hr hz hser hi, execute_of_fits (s := s.setStatus .executing) h hf hl hb,
    andThen_next, landed_issued_setStatus hi, returnAck]

end

/-- Settles O26: the swap needs status Idle. -/
theorem busyDoorbellIsDropped : Obligations.BusyDoorbellIsDropped :=
  fun _ v _ hr hz hi => exec_wrDoorbell_of_busy hr hz v hi

/-! ### A doorbell without a transfer -/

/-- An issue phase without a call leaves the Device alone and emits at most its log event (R219). -/
theorem issue_noCall_keeps {s u : State} (h : issue s = .noCall u) :
    u.life = s.life ∧ u.cfg = s.cfg ∧ u.dev = s.dev ∧
      (u.trace = s.trace ∨ u.trace = s.trace ++ [.log .transferOutOfBounds]) := by
  obtain ⟨-, rfl⟩ | ⟨a, -, -, rfl⟩ := issue_eq_noCall h
  · exact ⟨rfl, rfl, rfl, .inl rfl⟩
  · exact ⟨rfl, rfl, rfl, (logPoint_optional s _).2⟩

/-- Another command, or a device-side address outside the window, makes no call (R212, R219). -/
theorem exists_noCall_of_no_transfer {s : State}
    (h : deviceSide s.dev.dma = none ∨ ∃ a, deviceSide s.dev.dma = some a ∧ inWindow a = false) :
    ∃ u, issue s = .noCall u := by
  obtain hnone | ⟨a, ha, hw⟩ := h
  · exact ⟨s, issue_of_no_command hnone⟩
  · exact ⟨_, issue_of_out_of_window ha hw⟩

/-- From phase Started, where no call is made, two turns end the doorbell (R330). -/
theorem agentTurns_of_noCall {s u : State} (hr : Ready s) (hser : s.cfg.serialized = false)
    (hin : s.dev.inflight = some .started) (hu : issue s = .noCall u) : agentTurns 2 s = .next (rung u) := by
  obtain ⟨hlife, hcfg, hdev, -⟩ := issue_noCall_keeps hu
  rw [agentTurns, agentTurn_of_started hr hser hin, agentIssue, hu]
  exact agentTurns_of_raised (s := u.setInflight (some .raised)) (by simpa [Ready, hlife, hdev] using hr)
    (by simpa [hcfg] using hser) rfl 0

/-- Settles O27: the two ways to make no call, in one step and in the agent's turns. -/
theorem noInterruptWithoutATransfer : Obligations.NoInterruptWithoutATransfer := by
  refine ⟨fun s v z hr hz hi hser h1 h2 => ?_, fun s v z hr hz hi hser hout => ?_,
    fun s => logPoint_optional s _, fun s hr hser hin h => ?_⟩
  · exact exec_wrDoorbell_of_no_command hr hz v hser hi (deviceSide_of_other h1 h2)
  · obtain ⟨a, ha, hw⟩ := deviceSide_out_of_window hout
    exact exec_wrDoorbell_of_out_of_window hr hz v hser hi ha hw
  · obtain ⟨u, hu⟩ := exists_noCall_of_no_transfer
      (h.imp (fun ⟨h1, h2⟩ => deviceSide_of_other h1 h2) deviceSide_out_of_window)
    obtain ⟨-, -, hdev, htrace⟩ := issue_noCall_keeps hu
    exact ⟨_, agentTurns_of_noCall hr hser hin hu, congrArg (fun d => { d with status := .idle, inflight := none }) hdev,
      htrace⟩

/-! ### A transfer that fits -/

/-- The call of a transfer to the device (R213). -/
theorem issued_toDevice {s : State} (h : s.dev.dma.cmd = Config.cmdToDevice) (a : Word) :
    issued s a =
      (s.logWhen (s.dev.dma.src &&& s.dev.dma.mask != s.dev.dma.src) .addressMasked).emit
        (.busRead (s.dev.dma.src &&& s.dev.dma.mask) s.dev.dma.len) := by
  simp only [issued, busSide, busEvent, maskedAddr, if_pos h]

/-- The call of a transfer from the device (R214). -/
theorem issued_fromDevice {s : State} (h : s.dev.dma.cmd = Config.cmdFromDevice) (a : Word) :
    issued s a =
      (s.logWhen (s.dev.dma.dst &&& s.dev.dma.mask != s.dev.dma.dst) .addressMasked).emit
        (.busWrite (s.dev.dma.dst &&& s.dev.dma.mask) (s.dev.buf.readBytes (bufOffset a) s.dev.dma.len.toNat)) := by
  simp only [issued, busSide, busEvent, maskedAddr, if_neg (ne_toDevice_of_fromDevice h)]

/-- A transfer to the device leaves byte `j` of the answer at its place in the buffer (R213, R217). -/
theorem read_landedBuf_inside {d : DmaConfig} {buf : Memory} {j : Nat} (hcmd : d.cmd = Config.cmdToDevice)
    (hf : LandFits d) (hwf : buf.wf = true) (hj : j < d.len.toNat) (answer : BusAnswer) (n : Nat) :
    (landedBuf d answer n buf).read (bufOffset d.dst + j) = landedByte answer n j := by
  rw [landedBuf, if_pos hcmd, Memory.read_writeBytes_inside hwf (by simpa using hf hcmd) (by simpa using hj),
    getElem_landedBytes]

/-- A transfer leaves the bytes outside its range alone (R213, R214). -/
theorem read_landedBuf_outside {d : DmaConfig} {k : Nat}
    (hk : k < bufOffset d.dst ∨ bufOffset d.dst + d.len.toNat ≤ k) (answer : BusAnswer) (n : Nat) (buf : Memory) :
    (landedBuf d answer n buf).read k = buf.read k := by
  rw [landedBuf]
  split
  · exact Memory.read_writeBytes_outside _ (by simpa using hk)
  · rfl

/-- A transfer from the device, or one of length 0, writes no byte of the buffer (R214, R221). -/
theorem landedBuf_eq_self {d : DmaConfig} (h : d.cmd ≠ Config.cmdToDevice ∨ d.len = 0) (answer : BusAnswer) (n : Nat)
    (buf : Memory) : landedBuf d answer n buf = buf := by
  rw [landedBuf]
  split
  · rw [h.resolve_left (not_not.mpr ‹_›)]
    rfl
  · rfl

/-- Settles O28: the bytes of the answer land in the range, and no others change. -/
theorem toDeviceTransfer : Obligations.ToDeviceTransfer := by
  intro s v z hr hz hi hser hl hb hcmd hlo hend hwf off addr u
  have ha := deviceSide_toDevice hcmd
  have hfits : TransferFits s.dev.dma.dst s.dev.dma.len := transferFits_iff.mpr ⟨hlo, hend⟩
  have hissued : issued s s.dev.dma.dst = u.emit (.busRead addr s.dev.dma.len) := issued_toDevice hcmd _
  refine ⟨_, exec_wrDoorbell_of_fits hr hz v hser hi ha hfits hl hb, by simp, fun j hj => ?_, fun k hk => ?_, ?_, rfl,
    by simp, by simp, by simp, by simp⟩
  · simp only [State.setReply_dev, landed_dev, issued_dev]
    rw [hissued]
    exact read_landedBuf_inside hcmd (LandFits.of_fits ha hfits) hwf hj _ _
  · simp only [State.setReply_dev, landed_dev, issued_dev]
    exact read_landedBuf_outside hk _ _ _
  · rw [State.setReply_trace, landed_trace, issued_dev, hissued]
    rfl

/-- Settles O29: the call carries the buffer's bytes, and landing leaves the buffer alone. -/
theorem fromDeviceTransfer : Obligations.FromDeviceTransfer := by
  intro s v z hr hz hi hser hl hb hcmd hlo hend off addr u
  have hfits : TransferFits s.dev.dma.src s.dev.dma.len := transferFits_iff.mpr ⟨hlo, hend⟩
  have hissued : issued s s.dev.dma.src = u.emit (.busWrite addr (s.dev.buf.readBytes off s.dev.dma.len.toNat)) :=
    issued_fromDevice hcmd _
  refine ⟨_, exec_wrDoorbell_of_fits hr hz v hser hi (deviceSide_fromDevice hcmd) hfits hl hb, ?_, ?_, rfl,
    by simp, by simp, by simp, by simp⟩
  · simp [landedBuf_eq_self (.inl (ne_toDevice_of_fromDevice hcmd))]
  · rw [State.setReply_trace, landed_trace, issued_dev, hissued]
    rfl

/-! ### A transfer that overruns the buffer -/

/-- Settles O30: the overrun is found in the issue phase, and the fault it leaves is sticky. -/
theorem overrunFaultsBeforeTheBusCall : Obligations.OverrunFaultsBeforeTheBusCall := by
  refine ⟨fun s v z a hr hcmd hlo hhi hend => ?_, fun s r hl hstep => ?_⟩
  · have ha : deviceSide s.dev.dma = some a := deviceSide_of_command hcmd
    have hw : inWindow a = true := inWindow_iff.mpr ⟨hlo, hhi⟩
    refine ⟨fun hz hi hser => exec_wrDoorbell_of_overrun hr hz v hser hi ha hw hend, fun hser hin => ?_⟩
    rw [agentTurn_of_started hr hser hin, agentIssue, issue_of_overrun ha hw hend]
    rfl
  · have hsettled : settled s = s.setFault (some r) := by rw [settled, hstep]; rfl
    rw [hsettled]
    exact ⟨rfl, faultsAreSticky _ r hl rfl⟩

/-! ### A transfer of length 0 -/

theorem filter_deliversInterrupt_logEvents (n : Nat) (k : LogKind) :
    (logEvents n k).filter deliversInterrupt = [] := by
  rcases logEvents_cases n k with h | h <;> rw [h] <;> rfl

@[simp] theorem deliversInterrupt_raiseEvent (irq : IrqState) : deliversInterrupt (raiseEvent irq) = true := by
  cases irq <;> rfl

theorem filter_deliversInterrupt_landEvents (s : State) :
    (landEvents s).filter deliversInterrupt = [raiseEvent s.dev.irq] := by
  rw [landEvents]
  split <;> simp [filter_deliversInterrupt_logEvents]

/-- What a transfer at device address `a` emits: the optional mask log, its call, and what the answer adds (R213,
R214, R218). -/
def transferEvents (s : State) (a : Word) : List Event :=
  (if maskedAddr (busSide s.dev.dma) s.dev.dma.mask != busSide s.dev.dma then
    logEvents s.draws .addressMasked else []) ++
    busEvent s.dev.dma (bufOffset a) s.dev.buf :: landEvents (issued s a)

theorem landed_issued_trace (s : State) (a : Word) :
    (landed (issued s a)).trace = s.trace ++ transferEvents s a := by
  simp [landed_trace_eq, issued_trace, transferEvents]

/-- A transfer makes one bus-transfer call (R213, R214). -/
theorem filter_isBusCall_transferEvents (s : State) (a : Word) :
    (transferEvents s a).filter isBusCall = [busEvent s.dev.dma (bufOffset a) s.dev.buf] := by
  rw [transferEvents]
  split <;> simp [filter_isBusCall_logEvents, filter_isBusCall_landEvents]

/-- A transfer raises one interrupt (R218). -/
theorem filter_deliversInterrupt_transferEvents (s : State) (a : Word) :
    (transferEvents s a).filter deliversInterrupt = [raiseEvent s.dev.irq] := by
  rw [transferEvents]
  split <;> simp [filter_deliversInterrupt_logEvents, filter_deliversInterrupt_landEvents]

/-- Settles O31: a transfer of length 0 in the window fits, and so is a transfer like any other. -/
theorem zeroLengthTransferStillCompletes : Obligations.ZeroLengthTransferStillCompletes := by
  intro s v z a hr hz hi hser hl hb hlen hcmd hlo hhi
  have hzero : s.dev.dma.len.toNat = 0 := by simp [hlen]
  have hfits : TransferFits a s.dev.dma.len := transferFits_iff.mpr ⟨hlo, by omega⟩
  have hbuf : landedBuf s.dev.dma (issued s a).busAnswer (issued s a).draws s.dev.buf = s.dev.buf :=
    landedBuf_eq_self (.inr hlen) _ _ _
  refine ⟨_, transferEvents s a, exec_wrDoorbell_of_fits hr hz v hser hi (deviceSide_of_command hcmd) hfits hl hb,
    by simp [hbuf], by simp [hi], landed_issued_trace s a, ?_, filter_deliversInterrupt_transferEvents s a⟩
  rw [filter_isBusCall_transferEvents, busEvent, hlen]
  rfl

/-! ### The frame of a doorbell -/

/-- The transfer of a doorbell neither releases the vectors nor sets the fault, and keeps what is around the Device. -/
theorem execute_frame {s t : State} (h : execute s = .next t) :
    t.dev.released = s.dev.released ∧ t.dev.fault = s.dev.fault ∧ t.cfg = s.cfg ∧ t.life = s.life ∧
      t.inbox = s.inbox := by
  obtain ⟨-, rfl⟩ | ⟨a, -, -, rfl⟩ | ⟨a, -, -, -, -, rfl⟩ := execute_eq_next h <;> simp

/-- The transfer of a doorbell writes the buffer only for a transfer to the device, and only in its range (R213). -/
theorem execute_buf {s t : State} (h : execute s = .next t) :
    (s.dev.dma.cmd ≠ Config.cmdToDevice → t.dev.buf = s.dev.buf) ∧
      ∀ k, k < bufOffset s.dev.dma.dst ∨ bufOffset s.dev.dma.dst + s.dev.dma.len.toNat ≤ k →
        t.dev.buf.read k = s.dev.buf.read k := by
  obtain ⟨-, rfl⟩ | ⟨a, -, -, rfl⟩ | ⟨a, -, -, -, -, rfl⟩ := execute_eq_next h
  · exact ⟨fun _ => rfl, fun _ _ => rfl⟩
  · exact ⟨fun _ => rfl, fun _ _ => rfl⟩
  · simp only [landed_dev, issued_dev]
    exact ⟨fun hne => landedBuf_eq_self (.inl hne) _ _ _, fun k hk => read_landedBuf_outside hk _ _ _⟩

/-- Settles O32: a doorbell is dropped, runs its transfer with status back at Idle, or is accepted. -/
theorem doorbellFrame : Obligations.DoorbellFrame := by
  intro s t v z h
  obtain ⟨-, -, ⟨-, rfl⟩ | ⟨hi, hser, u, hu, rfl⟩ | ⟨-, hser, rfl⟩⟩ := execWrDoorbell_eq_next (v := v) h
  · exact ⟨rfl, rfl, rfl, rfl, rfl, rfl, rfl, fun _ => ⟨rfl, rfl⟩, fun _ => rfl, fun _ _ => rfl⟩
  · obtain ⟨hreleased, hfault, hcfg, hlife, hinbox⟩ := execute_frame hu
    have hreg := execute_keepsRegs hu
    have hdma := execute_keepsDma hu
    have hinflight := execute_keepsInflight hu
    have hbuf := execute_buf hu
    exact ⟨hreg, hdma, hreleased, hfault, hcfg, hlife, hinbox, fun _ => ⟨hi.symm, hinflight⟩, hbuf⟩
  · exact ⟨rfl, rfl, rfl, rfl, rfl, rfl, rfl, fun hs => (nomatch hser.symm.trans hs), fun _ => rfl, fun _ _ => rfl⟩

/-! ### The agent's three turns -/

/-- The configured transfer is in the window and passes the end of the buffer (R215). -/
def Overruns (d : DmaConfig) : Prop :=
  ∃ a, deviceSide d = some a ∧ inWindow a = true ∧ 0x1000 < bufOffset a + d.len.toNat

/-- The doorbell in flight is about to issue a transfer that overruns (R215, R330). -/
def OverrunPending (s : State) : Prop := s.dev.inflight = some .started ∧ Overruns s.dev.dma

/-- `execute` has a step unless its transfer overruns the buffer (R212). -/
theorem execute_completes {s : State} (hl : IrqLive s) (hb : s.busReturns = true) (ho : ¬ Overruns s.dev.dma) :
    ∃ u, execute s = .next u := by
  cases ha : deviceSide s.dev.dma with
  | none => exact ⟨_, execute_of_no_command ha⟩
  | some a =>
    cases hw : inWindow a with
    | false => exact ⟨_, execute_of_out_of_window ha hw⟩
    | true => exact ⟨_, execute_of_fits ha ⟨hw, Nat.le_of_not_lt fun hlt => ho ⟨a, ha, hw, hlt⟩⟩ hl hb⟩

/-- What the invariant says of a Device in flight: it is ready, in the phased regime, and its vectors are its own
(R57). -/
theorem phased_of_executing {s : State} (h : Inv s) (hl : s.life = .present) (hx : s.dev.status = .executing) :
    Ready s ∧ s.cfg.serialized = false ∧ s.dev.inflight ≠ none ∧ IrqLive s := by
  have hdev := h.device (by simp [hl])
  have hin := hdev.inflight.mp hx
  exact ⟨⟨hl, hdev.fault⟩, Bool.eq_false_iff.mpr fun hser => hin (hdev.serialized hser), hin,
    irqLive_of_not_released (hdev.released_eq_false (by simp [hx]))⟩

/-- From each phase three turns end the doorbell in flight, unless an overrun is pending (R330). -/
theorem agentTurns_complete {s : State} (h : Inv s) (hl : s.life = .present) (hx : s.dev.status = .executing)
    (hb : s.busReturns = true) (ho : ¬ OverrunPending s) :
    ∃ u, agentTurns 3 s = .next (rung u) := by
  obtain ⟨hr, hser, hin, hlive⟩ := phased_of_executing h hl hx
  match hp : s.dev.inflight with
  | none => exact absurd hp hin
  | some .started =>
    obtain ⟨u, hu⟩ := execute_completes hlive hb fun hover => ho ⟨hp, hover⟩
    exact ⟨u, by rw [agentTurns_of_started hr hser hp, hu, andThen_next]⟩
  | some .awaitBus =>
    obtain ⟨a, ha, hfits⟩ := (h.device (by simp [hl])).awaited hp
    have hland := land_of_fits (LandFits.of_fits ha hfits) hlive hb
    refine ⟨(landed s).setInflight (some .raised), ?_⟩
    rw [agentTurns, agentTurn_of_awaitBus hr hser hp, agentLand, hland]
    exact agentTurns_of_raised (by simpa [Ready] using hr) (by simpa using hser) rfl 1
  | some .raised => exact ⟨s, agentTurns_of_raised hr hser hp 2⟩

/-- A pending overrun faults in the first turn (R215). -/
theorem agentTurns_of_overrunPending {s : State} (hr : Ready s) (hser : s.cfg.serialized = false)
    (ho : OverrunPending s) : agentTurns 3 s = .fault .bufferOverrun := by
  obtain ⟨hin, a, ha, hw, hlt⟩ := ho
  rw [agentTurns_of_started hr hser hin, execute_of_overrun ha hw hlt, andThen_fault]

/-- Settles O36: a pending overrun faults, everything else completes, and no run does both. -/
theorem acceptedDoorbellCompletes : Obligations.AcceptedDoorbellCompletes := by
  intro s h hl hx hb
  obtain ⟨hr, hser, -⟩ := phased_of_executing h hl hx
  show (_ ↔ ¬ OverrunPending s) ∧ (_ ↔ OverrunPending s)
  by_cases ho : OverrunPending s
  · simp [agentTurns_of_overrunPending hr hser ho, ho]
  · obtain ⟨u, hu⟩ := agentTurns_complete h hl hx hb ho
    simp [hu, ho, rung]

/-! ### After `finalize` -/

/-- A read of `z` bytes is its value behind the gate of that size, after its log point (R150). -/
theorem exec_read_of_size {i : Instr} {z : Nat} (hi : isRead i = true) (hsize : accessSizeOf i = some z) (s : State) :
    exec i s = whenSize z s fun s => returnData z (readValue s.dev.reg i) (afterReadLog s i) := by
  cases i <;> cases hi <;> cases hsize <;> rfl

/-- A register-window read has a step, and the Device stays (R93). -/
theorem exec_read_of_ready {i : Instr} {s : State} {z : Nat} (hr : Ready s) (hz : sizeOk z = true)
    (hi : isRead i = true) (hsize : accessSizeOf i = some z) : ∃ t, exec i s = .next t ∧ t.dev = s.dev := by
  rw [exec_read_of_size hi hsize, whenSize_of_ready hr hz]
  exact ⟨_, rfl, afterReadLog_dev s i⟩

theorem filter_not_isLog_logPoint (s : State) (k : LogKind) :
    (s.logPoint k).trace.filter (fun e => !isLog e) = s.trace.filter (fun e => !isLog e) := by
  obtain h | h := (logPoint_optional s k).2 <;> rw [h]
  simp [isLog]

theorem whenHookAllowed_of_off {s : State} (h : Ready s) (ho : s.dev.status = .off) (k : State → Result) :
    whenHookAllowed s k = .fault .lifecycleAfterFinalize := by
  rw [whenHookAllowed, whenAlive_of_ready h, if_pos ho, raiseFault]

/-- Settles O42: the engine is Off, so its gates drop what reaches them, and the vectors of message mode are
released. -/
theorem afterFinalize : Obligations.AfterFinalize := by
  intro s v z hinv hr ho hz
  have hbusy : s.dev.status ≠ .idle := by simp [ho]
  have hdev := hinv.device (by simp [hr.1])
  refine ⟨fun i => exec_read_of_ready hr hz, writeReg_of_ready hr hz 0 v, writeReg_of_ready hr hz 1 v,
    writeReg_of_ready hr hz 2 v, writeReg_of_ready hr hz 3 v, fun i hi => ?_, fun hm i hi => ?_, fun hm i hi => ?_,
    by rw [exec, execReset, whenHookAllowed_of_off hr ho], by rw [exec, execFinalize, whenHookAllowed_of_off hr ho]⟩
  · obtain hconfig | rfl : i ∈ [Instr.wrDmaSrc v z, .wrDmaDst v z, .wrDmaLen v z, .wrDmaCmd v z] ∨
        i = .wrDoorbell v z := by simpa [or_assoc] using hi
    · exact ⟨_, exec_configWrite_of_busy hr hz hbusy v i hconfig, rfl, filter_not_isLog_logPoint s _⟩
    · exact ⟨_, exec_wrDoorbell_of_busy hr hz v hbusy, rfl, rfl⟩
  · have hlive : IrqLive s := fun hm' => nomatch hm.symm.trans hm'
    obtain rfl | rfl : i = .wrIrqRaise v z ∨ i = .wrIrqLower v z := by simpa using hi
    · exact ⟨_, exec_wrIrqRaise_of_live hr hz hlive v⟩
    · exact ⟨_, exec_wrIrqLower_of_live hr hz hlive v⟩
  · have hrel : s.dev.released = true := hdev.released.mpr ⟨ho, hm⟩
    obtain rfl | rfl : i = .wrIrqRaise v z ∨ i = .wrIrqLower v z := by simpa using hi
    · exact exec_wrIrqRaise_of_released hr hz hm hrel v
    · exact exec_wrIrqLower_of_released hr hz hm hrel v

end Sys2Proof.Machine
end

section
/-! PROOFS of the family 42_irq: `raise` and `lower` of every vector in both modes, and the level of the line. -/

namespace Sys2Proof.Machine

/-! ### Pin mode -/

/-- Settles O19: the two pin-mode equations, whatever the vector. -/
theorem pinModeIgnoresTheVector : Obligations.PinModeIgnoresTheVector :=
  fun _ _ v hirq => ⟨raiseIrq_of_pin hirq v, lowerIrq_of_pin hirq v⟩

/-! ### Message mode before the release -/

theorem vectorFlag_of_lt (raised : Vector Bool 32) {v : Nat} (hv : v < 32) : vectorFlag raised v = raised[v] := by
  rw [vectorFlag, Vector.getElem?_eq_getElem hv, Option.getD_some]

theorem setVectorFlag_of_lt (raised : Vector Bool 32) {v : Nat} (hv : v < 32) (b : Bool) :
    setVectorFlag raised v b = raised.set v b := by
  ext k hk
  simp [setVectorFlag, Vector.getElem_setIfInBounds, Vector.getElem_set]

section
variable {s : State} {raised : Vector Bool 32} {v : Nat}

theorem raiseIrq_of_out_of_range (hirq : s.dev.irq = .message raised) (hrel : s.dev.released = false)
    (hv : 32 ≤ v) : raiseIrq v s = .next (s.logPoint .vectorOutOfRange) := by
  simp [raiseIrq, hirq, hrel, hv]

theorem lowerIrq_of_out_of_range (hirq : s.dev.irq = .message raised) (hrel : s.dev.released = false)
    (hv : 32 ≤ v) : lowerIrq v s = .next (s.logPoint .vectorOutOfRange) := by
  simp [lowerIrq, hirq, hrel, hv]

theorem raiseIrq_of_in_range (hirq : s.dev.irq = .message raised) (hrel : s.dev.released = false) (hv : v < 32) :
    raiseIrq v s = .next ((s.setIrq (.message (raised.set v true))).emit (.notify v)) := by
  simp [raiseIrq, hirq, hrel, hv, setVectorFlag_of_lt]

/-- A lower of a clear flag changes nothing and emits nothing (R264). -/
theorem lowerIrq_of_clear (hirq : s.dev.irq = .message raised) (hrel : s.dev.released = false) (hv : v < 32)
    (hflag : raised[v] = false) : lowerIrq v s = .next s := by
  simp [lowerIrq, hirq, hrel, hv, vectorFlag_of_lt, hflag]

theorem lowerIrq_of_set (hirq : s.dev.irq = .message raised) (hrel : s.dev.released = false) (hv : v < 32)
    (hflag : raised[v] = true) : lowerIrq v s = .next (s.setIrq (.message (raised.set v false))) := by
  simp [lowerIrq, hirq, hrel, hv, vectorFlag_of_lt, setVectorFlag_of_lt, hflag]

end

/-- Settles O20: the vectors are released, or the vector is out of range, or its flag is clear or set. -/
theorem messageModeRaisesAndLowersTheVector : Obligations.MessageModeRaisesAndLowersTheVector := by
  intro s raised v hirq
  have hm : isMessage s.dev.irq = true := isMessage_of_eq hirq
  exact ⟨fun hrel => ⟨raiseIrq_of_released hm hrel v, lowerIrq_of_released hm hrel v⟩,
    fun hrel hv => ⟨raiseIrq_of_out_of_range hirq hrel hv, lowerIrq_of_out_of_range hirq hrel hv,
      logPoint_optional s .vectorOutOfRange⟩,
    fun hrel hv => ⟨raiseIrq_of_in_range hirq hrel hv, lowerIrq_of_clear hirq hrel hv,
      lowerIrq_of_set hirq hrel hv⟩⟩

end Sys2Proof.Machine

namespace Sys2Proof

open Machine

/-! ### The level of the line -/

/-- In every state of the invariant the line shows the pin flag: before `init` nothing has driven it (R267). -/
theorem Inv.lineShows {s : State} (h : Inv s) : LineShows s.dev.irq s.trace := by
  intro raised hirq l hl
  by_cases ha : s.life = .absent
  · simp [h.quiet ha] at hl
  · exact h.line ha raised hirq l hl

/-- Settles O52: the step keeps the invariant, and the invariant says it of the next state. -/
theorem lineLevelIsThePinFlag : Obligations.LineLevelIsThePinFlag :=
  fun s t b l hinv _ hstep hirq => (everyStepKeepsTheInvariant s t hinv hstep).lineShows b hirq l

end Sys2Proof
end

section
/-! PROOFS of the family 70_reset_and_hazards: the values after reset, and what the lifecycle hooks make of a State. -/

namespace Sys2Proof.Machine

/-! ### Vectors and events of a lowered Device -/

/-- Lowering vector 0 clears the pin flag or flag 0, and leaves the other vectors (R263, R264). -/
theorem raisedFlag_irqLowered (irq : IrqState) (v : Nat) :
    raisedFlag (irqLowered irq) v = if isMessage irq = true ∧ v ≠ 0 then raisedFlag irq v else false := by
  cases irq with
  | pin b => rfl
  | message raised => by_cases hv : v = 0 <;> simp [irqLowered, raisedFlag, isMessage, vectorFlag_set, hv]

/-- Only pin mode has an event for a lower (R263, R264). -/
theorem lowerEvents_eq (irq : IrqState) : lowerEvents irq = if isMessage irq then [] else [.assertLine false] := by
  cases irq <;> rfl

/-! ### `init` -/

theorem execInit_of_absent {s : State} (h : s.life = .absent) :
    execInit s =
      .next ((((s.setDev (Device.initial s.cfg)).setLife .present).emit .queryMsi).setReply (some .ack)) := by
  rw [execInit_eq, if_pos h, initDevice_eq, returnAck]

theorem execInit_of_ready {s : State} (h : Ready s) (hin : s.dev.inflight = none) :
    execInit s = .fault .initTwice := by
  have hlife : s.life ≠ .absent := by simp [h.1]
  rw [execInit_eq, if_neg hlife, whenAlive_of_ready h]
  simp [initAgain, hin, raiseFault]

/-- Settles O37: an absent Device becomes `Device.initial`, and on a ready one with nothing in flight a second `init`
faults. -/
theorem initCreatesTheDevice : Obligations.InitCreatesTheDevice :=
  ⟨fun _ h => ⟨_, execInit_of_absent h, rfl, rfl, rfl, rfl, rfl, rfl, rfl, rfl⟩, fun _ => rfl,
    fun _ => execInit_of_ready⟩

/-! ### `reset` -/

theorem execReset_of_live {s : State} (hr : Ready s) (ho : s.dev.status ≠ .off) (hin : s.dev.inflight = none)
    (hl : IrqLive s) : execReset s = .next ((lowered (dmaReset s.clearRegs)).setReply (some .ack)) := by
  have hlower : irqReset (dmaReset s.clearRegs) = .next (lowered (dmaReset s.clearRegs)) := lowerIrq_of_live hl
  rw [execReset, whenHookAllowed_of_ready hr ho hin, hlower, andThen_next, returnAck]

/-- Settles O38: the State `reset` leaves, its flags and its event by the two rules of a lowered vector 0. -/
theorem resetHookClears : Obligations.ResetHookClears := by
  intro s hr ho hin hl
  refine ⟨_, execReset_of_live hr ho hin hl, ?_⟩
  simp [dmaReset_eq, State.clearRegs, DmaConfig.zeroed, raisedFlag_irqLowered, lowerEvents_eq]

/-! ### `finalize` -/

/-- The State `irq_finalize` leaves (R275): vector 0 lowered and, in message mode, the vectors released. -/
def irqFinalized (s : State) : State :=
  { (s.setIrq (irqLowered s.dev.irq)).setReleased (s.dev.released || isMessage s.dev.irq) with
    trace := s.trace ++ if isMessage s.dev.irq then [.releaseVectors] else [.assertLine false] }

/-- The state `dma_finalize` leaves (R231), field by field. -/
theorem dmaFinalize_eq (s : State) :
    dmaFinalize s =
      s.setDev { s.dev with status := .off, dma := DmaConfig.zeroed s.dev.dma.mask, buf := [] } := rfl

theorem irqFinalize_of_live {s : State} (hl : IrqLive s) : irqFinalize s = .next (irqFinalized s) := by
  have hlower : irqReset s = .next (lowered s) := lowerIrq_of_live hl
  rw [irqFinalize, hlower, andThen_next]
  cases hirq : s.dev.irq <;>
    simp [hirq, irqFinalized, lowered, irqLowered, lowerEvents, isMessage, State.emit, State.setIrq, State.setReleased]

theorem execFinalize_of_live {s : State} (hr : Ready s) (ho : s.dev.status ≠ .off) (hin : s.dev.inflight = none)
    (hl : IrqLive s) : execFinalize s = .next ((dmaFinalize (irqFinalized s)).setReply (some .ack)) := by
  rw [execFinalize, whenHookAllowed_of_ready hr ho hin, irqFinalize_of_live hl, andThen_next, returnAck]

/-- Settles O39: the State `finalize` leaves is the engine's part on top of the interrupt part. -/
theorem finalizeHookTurnsOff : Obligations.FinalizeHookTurnsOff := by
  intro s hr ho hin hl
  refine ⟨_, execFinalize_of_live hr ho hin hl, ?_⟩
  simp [dmaFinalize_eq, irqFinalized, DmaConfig.zeroed, State.setIrq, State.setReleased]

/-! ### The values after reset -/

/-- No vector is raised after `init`, in either mode (R54). -/
theorem raisedFlag_initial (cfg : Cfg) (v : Nat) : raisedFlag (Device.initial cfg).irq v = false := by
  cases h : cfg.msiNegotiated with
  | true => simp [Device.initial, h, raisedFlag]
  | false => simp [Device.initial, h, raisedFlag]

/-- Settles O8: the fields of `Device.initial`, its mode from the parameter. -/
theorem resetStateHoldsTheInitialValues : Obligations.ResetStateHoldsTheInitialValues := by
  refine ⟨rfl, fun cfg s hs => ?_⟩
  subst hs
  exact ⟨fun i => Vector.getElem_replicate i.isLt, rfl, rfl, rfl, rfl, rfl, rfl, fun _ => rfl,
    (deviceInv_initial cfg).mode, raisedFlag_initial cfg, rfl, rfl, rfl⟩

end Sys2Proof.Machine

namespace Sys2Proof

open Machine

/-! ### The invariant at reset -/

/-- A Device as `init` leaves it, in a machine that has emitted nothing. -/
theorem inv_of_initial {s : State} (hdev : s.dev = Device.initial s.cfg) (htrace : s.trace = []) : Inv s where
  buf := by rw [hdev]; rfl
  device _ := hdev ▸ deviceInv_initial s.cfg
  line _ _ _ l hl := by simp [htrace, lineLevel] at hl
  quiet _ := by rw [htrace]; rfl

/-- Settles O46: at reset and before `init` the Device record is the initial one and the trace is empty. -/
theorem invariantHoldsAtReset : Obligations.InvariantHoldsAtReset :=
  ⟨inv_of_initial rfl rfl, fun _ => ⟨inv_of_initial rfl rfl, inv_of_initial rfl rfl⟩⟩

end Sys2Proof
end

section
/-! PROOFS of the family other: narrow accesses, the write-only offsets, a doorbell's phases one by one, and where each
fault comes from. -/

namespace Sys2Proof

open Machine

/-! ### Narrow accesses -/

/-- Byte `j` of the low bytes of a word is bits `8j+7 : 8j` (R84). -/
theorem getElem?_bytesOfWord {n j : Nat} (h : j < n) (v : Word) :
    (bytesOfWord n v)[j]? = some (v.extractLsb' (8 * j) 8) := by
  simp [bytesOfWord, h]

/-- Settles O6: what is presented are the low bytes, and reading them back gives what a write delivers. -/
theorem narrowAccessesPresentLowBytes : Obligations.NarrowAccessesPresentLowBytes := by
  intro z v hz
  obtain ⟨-, hle⟩ := sizeOk_iff.mp hz
  exact ⟨length_bytesOfWord z v, fun j hj => getElem?_bytesOfWord hj v, toNat_deliverWrite hle v,
    wordOfBytes_bytesOfWord z v⟩

/-- Settles O24: the two bounds as numerals. -/
theorem windowTestIsInclusive : Obligations.WindowTestIsInclusive := fun _ => inWindow_iff

end Sys2Proof

namespace Sys2Proof.Machine

/-! ### The write-only offsets and the hooks after `finalize` -/

/-- The reads of the seven write-only offsets are one operation (D3). -/
theorem exec_writeOnlyRead (s : State) (z : Nat) :
    ∀ i ∈ [Instr.rdWo20 z, .rdWo28 z, .rdWo30 z, .rdWo38 z, .rdWo40 z, .rdWo48 z, .rdWo50 z],
      exec i s = readSentinel z s := by
  simp only [List.forall_mem_cons, List.not_mem_nil, false_implies, implies_true, and_true]
  exact ⟨rfl, rfl, rfl, rfl, rfl, rfl, rfl⟩

/-- Settles O11: the one operation returns the sentinel, and the register map gives the seven reads their offsets. -/
theorem writeOnlyReadsReturnTheSentinel : Obligations.WriteOnlyReadsReturnTheSentinel := by
  refine ⟨fun s z hr hz i hi => ?_, fun _ _ => ⟨rfl, rfl, rfl, rfl, rfl, rfl, rfl⟩⟩
  rw [exec_writeOnlyRead s z i hi]
  exact readSentinel_of_ready hr hz

/-- Settles O40: the first check of both hooks. -/
theorem hooksAfterFinalizeFault : Obligations.HooksAfterFinalizeFault :=
  fun _ hr ho => ⟨by rw [exec, execReset, whenHookAllowed_of_off hr ho],
    by rw [exec, execFinalize, whenHookAllowed_of_off hr ho]⟩

/-! ### The phases of a doorbell -/

/-- What `log?` adds under a condition is its event or nothing (R26). -/
theorem logWhenEvents_cases (c : Bool) (n : Nat) (k : LogKind) :
    (if c then logEvents n k else []) = [] ∨ (if c then logEvents n k else []) = [.log k] := by
  cases c
  · exact .inl rfl
  · exact logEvents_cases n k

/-- The call that awaits its answer is that of a transfer that fits (R330). -/
theorem LandFits.of_awaited {d : Device} (h : AwaitedFits d) (hin : d.inflight = some .awaitBus) :
    LandFits d.dma := by
  obtain ⟨a, ha, hfits⟩ := h hin
  exact .of_fits ha hfits

section
variable {s : State} (hr : Ready s) (hser : s.cfg.serialized = false)
include hr hser

/-- The accept phase (R330). -/
theorem exec_wrDoorbell_accept {z : Nat} (hz : sizeOk z = true) (hi : s.dev.status = .idle) (v : Word) :
    exec (.wrDoorbell v z) s = .next (((s.setStatus .executing).setInflight (some .started)).setReply none) := by
  rw [exec, execWrDoorbell, whenSize_of_ready hr hz, hser, if_neg Bool.false_ne_true, ringAccept_of_idle hi]

/-- The issue phase of a transfer that fits makes its call (R330). -/
theorem agentTurn_issue_call {a : Word} (hin : s.dev.inflight = some .started) (ha : deviceSide s.dev.dma = some a)
    (hf : TransferFits a s.dev.dma.len) : agentTurn s = .next ((issued s a).setInflight (some .awaitBus)) := by
  rw [agentTurn_of_started hr hser hin, agentIssue, issue_of_fits ha hf]

/-- The issue phase without a call (R212, R219, R330). -/
theorem agentTurn_issue_noCall {u : State} (hin : s.dev.inflight = some .started) (hu : issue s = .noCall u) :
    agentTurn s = .next (u.setInflight (some .raised)) := by
  rw [agentTurn_of_started hr hser hin, agentIssue, hu]

/-- The land phase of a call that returns (R27, R330). -/
theorem agentTurn_land (hin : s.dev.inflight = some .awaitBus) (hf : LandFits s.dev.dma) (hl : IrqLive s)
    (hb : s.busReturns = true) : agentTurn s = .next ((landed s).setInflight (some .raised)) := by
  rw [agentTurn_of_awaitBus hr hser hin, agentLand, land_of_fits hf hl hb, andThen_next]

end

/-- Settles O34: the accept phase, the issue phase with and without a call, the land phase and the finish phase. -/
theorem doorbellPhases : Obligations.DoorbellPhases := by
  refine ⟨fun s v z hr hz hser hi => exec_wrDoorbell_accept hr hser hz hi v, fun s a hr hser hin hcmd hf => ?_,
    fun s hr hser hin h => ?_, fun s hr hser hin hl hb hawaited => ?_, fun s => agentTurn_of_raised⟩
  · have hcall := agentTurn_issue_call hr hser hin (deviceSide_of_command hcmd) hf
    exact ⟨_, _, hcall, congrArg (fun d => { d with inflight := some .awaitBus }) (issued_dev s a),
      logWhenEvents_cases _ s.draws .addressMasked, issued_trace s a⟩
  · simp only [Bool.eq_false_iff, ne_eq, inWindow_iff] at h
    obtain ⟨u, hu⟩ := exists_noCall_of_no_transfer
      (h.imp (fun ⟨h1, h2⟩ => deviceSide_of_other h1 h2) deviceSide_out_of_window)
    obtain ⟨-, -, hdev, htrace⟩ := issue_noCall_keeps hu
    exact ⟨_, agentTurn_issue_noCall hr hser hin hu,
      congrArg (fun d => { d with inflight := some .raised }) hdev, htrace⟩
  · have hland := agentTurn_land hr hser hin (.of_awaited hawaited hin) hl hb
    exact ⟨_, hland, landed_env s, congrArg (fun d => { d with inflight := some .raised }) (landed_dev s),
      landed_trace s⟩

/-! ### Where each fault comes from -/

/-- R310: the circumstances in which a transaction may raise each fault. -/
def FaultAllowed (s : State) (i : Instr) : Fault → Prop
  | .bufferOverrun => (∃ v z, i = .wrDoorbell v z) ∧ s.cfg.serialized = true ∧ s.dev.status = .idle ∧
      Overruns s.dev.dma
  | .irqAfterRelease => (∃ v z, i = .wrIrqRaise v z ∨ i = .wrIrqLower v z) ∧ s.dev.released = true ∧
      isMessage s.dev.irq = true
  | .lifecycleAfterFinalize => (i = .reset ∨ i = .finalize) ∧ s.dev.status = .off
  | .initTwice => i = .init ∧ s.dev.inflight = none
  | .lifecycleDuringTransfer => isHook i = true ∧ s.dev.inflight ≠ none

section
variable {s : State} {f : Fault}

/-- The only fault of a raise of vector 0 is that of the released vectors (R276). -/
theorem raiseIrq_fault_eq_irqAfterRelease (h : raiseIrq 0 s = .fault f) : f = .irqAfterRelease := by
  rw [raiseIrq_zero] at h
  split at h <;> cases h
  rfl

theorem lowerIrq_fault_eq_irqAfterRelease (h : lowerIrq 0 s = .fault f) : f = .irqAfterRelease := by
  rw [lowerIrq_zero] at h
  split at h <;> cases h
  rfl

theorem released_of_not_irqLive (h : ¬ IrqLive s) : s.dev.released = true ∧ isMessage s.dev.irq = true := by
  simpa [IrqLive, and_comm] using h

theorem ringAccept_ne_fault : ringAccept s ≠ .fault f := by
  rw [ringAccept_eq]
  split <;> nofun

/-- Where interrupts are live the only fault of a transfer is its overrun (R215). -/
theorem execute_eq_fault (hl : IrqLive s) (h : execute s = .fault f) :
    f = .bufferOverrun ∧ Overruns s.dev.dma := by
  unfold execute at h
  split at h
  · cases h
  · cases h
    exact issue_eq_fault ‹_›
  · obtain ⟨a, ha, hfits, rfl⟩ := issue_eq_call ‹_›
    have hland : LandFits (issued s a).dev.dma := by simpa using LandFits.of_fits ha hfits
    exact absurd ⟨hland, by simpa [IrqLive] using hl⟩ (land_eq_fault h)

/-- The faults of a second `init` (R331, R364). -/
theorem initAgain_fault_allowed (h : initAgain s = .fault f) : FaultAllowed s .init f := by
  unfold initAgain at h
  cases hin : s.dev.inflight with
  | none =>
    rw [hin] at h
    cases h
    exact ⟨rfl, hin⟩
  | some p =>
    rw [hin] at h
    cases h
    exact ⟨rfl, by simp [hin]⟩

/-- What a turn of the agent can do when it faults: the Device's own fault, that of the issue phase, or that of the land
phase (R330). -/
theorem agentTurn_eq_fault (h : agentTurn s = .fault f) :
    s.life = .present ∧ (s.dev.fault = some f ∨ s.cfg.serialized = false ∧
      (s.dev.inflight = some .started ∧ issue s = .fault f ∨
        s.dev.inflight = some .awaitBus ∧ land s = .fault f)) := by
  cases hl : s.life with
  | absent | tornDown => simp [agentTurn, hl] at h
  | present =>
    refine ⟨rfl, ?_⟩
    cases hf : s.dev.fault with
    | some g =>
      cases (agentTurn_of_fault hl hf).symm.trans h
      exact .inl rfl
    | none =>
      have hr : Ready s := ⟨hl, hf⟩
      cases hser : s.cfg.serialized with
      | true => simp [agentTurn, hl, hf, hser] at h
      | false =>
        refine .inr ⟨rfl, ?_⟩
        rcases hin : s.dev.inflight with _ | _ | _ | _
        · cases (agentTurn_of_none hr hin).symm.trans h
        · rw [agentTurn_of_started hr hser hin, agentIssue] at h
          split at h <;> cases h
          exact .inl ⟨rfl, ‹_›⟩
        · rw [agentTurn_of_awaitBus hr hser hin] at h
          obtain hland | ⟨u, -, hk⟩ := andThen_eq_fault h
          · exact .inr ⟨rfl, hland⟩
          · cases hk
        · cases (agentTurn_of_raised hr hser hin).symm.trans h

end

section
variable {s : State} {f : Fault} (hdev : DeviceInv s.cfg s.dev)
include hdev

/-- Before `finalize` interrupts are live (R55, R276). -/
theorem irqLive_of_not_off (ho : s.dev.status ≠ .off) : IrqLive s :=
  irqLive_of_not_released (hdev.released_eq_false ho)

theorem execWrIrqRaise_fault_cause {v : Word} {z : Nat} (h : execWrIrqRaise v z s = .fault f) :
    f = .irqAfterRelease ∧ s.dev.released = true ∧ isMessage s.dev.irq = true :=
  ⟨raiseIrq_fault_eq_irqAfterRelease (andThen_returnAck_eq_fault (g := id) (whenSize_fault_own hdev.fault h)),
    released_of_not_irqLive (execWrIrqRaise_eq_fault hdev.fault h)⟩

theorem execWrIrqLower_fault_cause {v : Word} {z : Nat} (h : execWrIrqLower v z s = .fault f) :
    f = .irqAfterRelease ∧ s.dev.released = true ∧ isMessage s.dev.irq = true :=
  ⟨lowerIrq_fault_eq_irqAfterRelease (andThen_returnAck_eq_fault (g := id) (whenSize_fault_own hdev.fault h)),
    released_of_not_irqLive (execWrIrqLower_eq_fault hdev.fault h)⟩

/-- A doorbell faults only in its own step, for a transfer that overruns (R210, R215). -/
theorem execWrDoorbell_fault_cause {v : Word} {z : Nat} (h : execWrDoorbell v z s = .fault f) :
    f = .bufferOverrun ∧ s.cfg.serialized = true ∧ s.dev.status = .idle ∧ Overruns s.dev.dma := by
  have hser : s.cfg.serialized = true := by
    by_contra hno
    have hk := whenSize_fault_own hdev.fault h
    rw [if_neg hno] at hk
    exact ringAccept_ne_fault hk
  obtain ⟨hi, hx⟩ := execWrDoorbell_eq_fault hdev.fault h
  have hlive : IrqLive s := irqLive_of_not_off hdev (by simp [hi])
  obtain ⟨rfl, hover⟩ := execute_eq_fault (s := s.setStatus .executing) hlive hx
  exact ⟨rfl, hser, hi, hover⟩

/-- The faults of `reset` and `finalize` are those of their checks: past them interrupts are live (R331, R363). -/
theorem whenHookAllowed_fault_allowed {i : Instr} {k : State → Result} (hi : i = .reset ∨ i = .finalize)
    (hk : k s = .fault f → ¬ IrqLive s) (h : whenHookAllowed s k = .fault f) : FaultAllowed s i f := by
  have hcheck := whenAlive_fault_own hdev.fault h
  split at hcheck
  · cases hcheck
    exact ⟨hi, ‹_›⟩
  · split at hcheck
    · cases hcheck
      have hhook : isHook i = true := by obtain rfl | rfl := hi <;> rfl
      exact ⟨hhook, Option.isSome_iff_ne_none.mp ‹_›⟩
    · exact absurd (irqLive_of_not_off hdev ‹_›) (hk hcheck)

theorem execReset_fault_allowed (h : execReset s = .fault f) : FaultAllowed s .reset f :=
  whenHookAllowed_fault_allowed hdev (.inl rfl)
    (fun hk => lowerIrq_eq_fault (s := dmaReset s.clearRegs) (andThen_returnAck_eq_fault (g := id) hk)) h

theorem execFinalize_fault_allowed (h : execFinalize s = .fault f) : FaultAllowed s .finalize f :=
  whenHookAllowed_fault_allowed hdev (.inr rfl) (fun hk => irqFinalize_eq_fault (andThen_returnAck_eq_fault hk)) h

end

section
variable {s : State} {f : Fault}

/-- Of all transactions the interrupt writes, the doorbell and the hooks alone can fault, each by its rule (R310). -/
theorem exec_fault_allowed {i : Instr} (hdev : DeviceInv s.cfg s.dev) (hl : s.life ≠ .absent)
    (h : exec i s = .fault f) : FaultAllowed s i f := by
  have hf := hdev.fault
  cases i with
  | wrReg0 | wrReg1 | wrReg2 | wrReg3 => exact absurd h (writeReg_ne_fault hf)
  | wrUnmapped | wrInvalid => exact absurd h (writeNowhere_ne_fault hf)
  | wrDmaSrc v => exact absurd h (configure_ne_fault (g := fun d => { d with src := v }) hf)
  | wrDmaDst v => exact absurd h (configure_ne_fault (g := fun d => { d with dst := v }) hf)
  | wrDmaLen v => exact absurd h (configure_ne_fault (g := fun d => { d with len := v }) hf)
  | wrDmaCmd v => exact absurd h (configure_ne_fault (g := fun d => { d with cmd := v }) hf)
  | wrIrqRaise v z =>
    obtain ⟨rfl, hreleased⟩ := execWrIrqRaise_fault_cause (v := v) hdev h
    exact ⟨⟨v, z, .inl rfl⟩, hreleased⟩
  | wrIrqLower v z =>
    obtain ⟨rfl, hreleased⟩ := execWrIrqLower_fault_cause (v := v) hdev h
    exact ⟨⟨v, z, .inr rfl⟩, hreleased⟩
  | wrDoorbell v z =>
    obtain ⟨rfl, hover⟩ := execWrDoorbell_fault_cause (v := v) hdev h
    exact ⟨⟨v, z, rfl⟩, hover⟩
  | init =>
    have hagain : whenAlive s initAgain = .fault f := by
      rw [← h, exec, execInit_eq, if_neg hl]
    exact initAgain_fault_allowed (whenAlive_fault_own hf hagain)
  | reset => exact execReset_fault_allowed hdev h
  | finalize => exact execFinalize_fault_allowed hdev h
  | _ => exact absurd h (exec_read_ne_fault hf rfl)

/-- In a state of the invariant a teardown never faults: there is no fault to repeat (R40, R56). -/
theorem teardown_ne_fault (hinv : Inv s) : teardown s ≠ .fault f := by
  intro h
  by_cases hl : s.life = .absent
  · cases (whenAlive_of_absent hl _).symm.trans h
  · cases whenAlive_fault_own (hinv.device hl).fault h

/-- In a state of the invariant the agent's one fault is the overrun of the issue phase: a transfer that awaits its
answer fits, and its interrupt is delivered (R215, R330). -/
theorem agentTurn_fault_cause (hinv : Inv s) (h : agentTurn s = .fault f) :
    f = .bufferOverrun ∧ s.cfg.serialized = false ∧ OverrunPending s := by
  obtain ⟨hl, hcause⟩ := agentTurn_eq_fault h
  have hdev := hinv.device (by simp [hl])
  obtain hsticky | ⟨hser, ⟨hin, hissue⟩ | ⟨hin, hland⟩⟩ := hcause
  · exact nomatch hdev.fault.symm.trans hsticky
  · obtain ⟨rfl, hover⟩ := issue_eq_fault hissue
    exact ⟨rfl, hser, hin, hover⟩
  · have hx : s.dev.status = .executing := hdev.inflight.mpr (by simp [hin])
    have hlive : IrqLive s := irqLive_of_not_off hdev (by simp [hx])
    exact absurd ⟨.of_awaited hdev.awaited hin, hlive⟩ (land_eq_fault hland)

end

/-- Settles O45: each transaction's faults, and those of the teardown and of the agent. -/
theorem faultsOnlyWhereTheirRulesSay : Obligations.FaultsOnlyWhereTheirRulesSay := by
  refine ⟨fun s i r hinv hl h => ?_, fun s r hinv => ⟨teardown_ne_fault hinv, agentTurn_fault_cause hinv⟩⟩
  have hallowed := exec_fault_allowed (hinv.device hl) hl h
  cases r <;> exact hallowed

end Sys2Proof.Machine
end
